-- ==== Sys2Proof/Word.lean ====
section
/-! DEFINITION. The word types of the block (00_scope.md R10, R11; 10_state.md R30, R49). -/

namespace Sys2Proof

/-- One byte on the bus (20_memory.md R61). -/
abbrev Byte := BitVec 8

/-- A 32-bit register or command word, `u32` (00_scope.md R10). -/
abbrev Word := BitVec 32

/-- The 64-bit pattern of a binary64 value (00_scope.md R11). -/
abbrev F64 := BitVec 64

/-- A 16-bit PCM sample, two's complement (10_state.md R49). -/
abbrev Sample := BitVec 16

end Sys2Proof
end

