-- ==== Sys2Proof/Syntax.lean ====
section
/-! DEFINITION. The commands of the block (30_encoding.md R82, R83, R87; spec/opcode_table.json). -/

namespace Sys2Proof

/-- A command. The three table rows of `SYNTH.ZERO` are the one command `SYNTH.ZERO k` of 30_encoding.md R87 (log 20). -/
inductive Instr where
  /-- `NOP` (43_control.md R170). -/
  | nop
  /-- `CLEAR` (43_control.md R171). -/
  | clear
  /-- `CLRERR` (43_control.md R172). -/
  | clrerr
  /-- `SYNTH.SIN` (41_synthesizer.md R115). -/
  | synthSin
  /-- `SYNTH.TRI` (41_synthesizer.md R116). -/
  | synthTri
  /-- `SYNTH.SQR` (41_synthesizer.md R117). -/
  | synthSqr
  /-- `SYNTH.ZERO k`, the unknown kinds `k = 3..15` (41_synthesizer.md R118). -/
  | synthZero (k : BitVec 4)
  /-- `NORM` (42_quantizer.md R140). -/
  | norm
  /-- `QUANT` (42_quantizer.md R150). -/
  | quant
  deriving DecidableEq, Repr

end Sys2Proof
end

