-- ==== Sys2Proof/WellFormed.lean ====
section
/-! DEFINITION. Which terms of `Instr` are commands of the table (30_encoding.md R83, R87). -/

namespace Sys2Proof

/-- The operand check: the kind of `SYNTH.ZERO k` is an unknown kind, 3..15 (30_encoding.md R83, R87). -/
def Instr.wf : Instr → Bool
  | .nop => true
  | .clear => true
  | .clrerr => true
  | .synthSin => true
  | .synthTri => true
  | .synthSqr => true
  | .synthZero k => decide (3 ≤ k.toNat)
  | .norm => true
  | .quant => true

end Sys2Proof
end

