-- ==== Sys2Proof/Decode.lean ====
section
/-! DEFINITION. The command word: decoding, total on every word and every byte list, and encoding (30_encoding.md R80 to R87). -/

namespace Sys2Proof

/-- Why a word is `ILLEGAL` (30_encoding.md R85, 60_exceptions.md R202), or that fewer than four bytes are there. -/
inductive DecodeError where
  /-- The RSVD field, bits 31:8, is not 0. -/
  | reservedBits
  /-- The OP field is one of 6..15. -/
  | reservedOp
  /-- The KIND field is not 0 and OP is not 3. -/
  | kindNotZero
  /-- A command is 32 bits long (R80) and the bytes end before. -/
  | tooShort
  deriving DecidableEq, Repr

/-- The field OP, `w[3:0]` (30_encoding.md R81). -/
def opField (w : Word) : BitVec 4 := w.extractLsb' 0 4

/-- The field KIND, `w[7:4]` (30_encoding.md R81, R84). -/
def kindField (w : Word) : BitVec 4 := w.extractLsb' 4 4

/-- The field RSVD, `w[31:8]` (30_encoding.md R81). -/
def rsvdField (w : Word) : BitVec 24 := w.extractLsb' 8 24

/-- `SYNTH(kind)`: every kind is legal (30_encoding.md R83, R85). -/
def decodeSynth (kind : BitVec 4) : Instr :=
  match kind.toNat with
  | 0 => .synthSin
  | 1 => .synthTri
  | 2 => .synthSqr
  | _ => .synthZero kind

/-- The operations other than `SYNTH` (30_encoding.md R82, R85). -/
def decodeOp (op : BitVec 4) : Except DecodeError Instr :=
  match op.toNat with
  | 0 => .ok .nop
  | 1 => .ok .clear
  | 2 => .ok .clrerr
  | 4 => .ok .norm
  | 5 => .ok .quant
  | _ => .error .reservedOp

/-- The decode function of 30_encoding.md R85; `ILLEGAL` is an error that names its reason. -/
def decodeWord (w : Word) : Except DecodeError Instr :=
  if rsvdField w ≠ 0 then .error .reservedBits
  else if opField w = 3 then .ok (decodeSynth (kindField w))
  else if kindField w ≠ 0 then .error .kindNotZero
  else decodeOp (opField w)

/-- Four bytes as the 32-bit word the bus carries, lowest address first, little-endian (20_memory.md R61). -/
def wordOfBytes (b0 b1 b2 b3 : Byte) : Word := b3 ++ b2 ++ b1 ++ b0

/-- The byte of a word at byte `j` of its register, `j = 0..3` (20_memory.md R61). -/
def byteOfWord (w : Word) (j : Nat) : Byte := w.extractLsb' (8 * j) 8

/-- The command in the first four bytes, and the rest (log 19). -/
def decodeBytes : List Byte → Except DecodeError (Instr × List Byte)
  | b0 :: b1 :: b2 :: b3 :: rest => (decodeWord (wordOfBytes b0 b1 b2 b3)).map (·, rest)
  | _ => .error .tooShort

/-- A command word from its KIND and OP fields, RSVD = 0 (30_encoding.md R81). -/
def commandWord (kind op : BitVec 4) : Word := (0 : BitVec 24) ++ kind ++ op

/-- The word of a command (30_encoding.md R87). -/
def encode : Instr → Word
  | .nop => commandWord 0 0
  | .clear => commandWord 0 1
  | .clrerr => commandWord 0 2
  | .synthSin => commandWord 0 3
  | .synthTri => commandWord 1 3
  | .synthSqr => commandWord 2 3
  | .synthZero k => commandWord k 3
  | .norm => commandWord 0 4
  | .quant => commandWord 0 5

/-- A word's four bytes as the bus stores them (20_memory.md R61). -/
def bytesOfWord (w : Word) : List Byte :=
  [byteOfWord w 0, byteOfWord w 1, byteOfWord w 2, byteOfWord w 3]

/-- The bytes of a command. -/
def encodeBytes (i : Instr) : List Byte := bytesOfWord (encode i)

/-- The 32-bit command word whose low `nbits` bits are those of `w` and whose other bits are 0. -/
def tableWord (nbits w : Nat) : Word := BitVec.ofNat 32 (w % 2 ^ nbits)

/-- What the decoder reads from a command whose bits are `w`, numbered as spec/opcode_table.json numbers them.
No command is longer than 32 bits (30_encoding.md R80). -/
def decodeTableWord (nbits w : Nat) : Option Instr :=
  if 32 < nbits then none
  else match decodeBytes (bytesOfWord (tableWord nbits w)) with
    | .ok (i, _) => some i
    | .error _ => none

end Sys2Proof
end

