-- ==== Sys2Proof/Config.lean ====
section
/-! DEFINITION. What an implementation fixes (00_scope.md R7, R8, R9) and the values the spec leaves free. -/

namespace Sys2Proof.Config

/-- The two numeric parameters of the block. They are held in the state as a constant that no step writes, so a statement over
every state holds for every value of them (DESIGN CHOICE, log 1). -/
structure Params where
  /-- `MAX_SAMPLES`, the capacity of both buffers in samples (00_scope.md R7). -/
  maxSamples : Nat
  /-- `BASE`, the bus address of offset 0 (00_scope.md R9). -/
  base : Nat
  deriving DecidableEq, Repr

/-- The constraints of 00_scope.md R7 and R9. -/
structure Params.Legal (p : Params) : Prop where
  /-- R7: at least one default segment. -/
  minSamples : 2205 ≤ p.maxSamples
  /-- R7: the PCM window fits a 32-bit offset. -/
  maxSamples : p.maxSamples ≤ 2 ^ 31 - 2048
  /-- R9: a multiple of 4. -/
  aligned : p.base % 4 = 0

/-- The parameters `State.reset` is given: the largest legal capacity and base 0 (DESIGN CHOICE, unsafe, log 1). -/
def defaultParams : Params := { maxSamples := 2 ^ 31 - 2048, base := 0 }

/-- The open part of the parameter `SIN` (00_scope.md R8): the magnitude of the sine of a finite nonzero argument, brought
into the range P2 and P3 allow by `Sys2Proof.Machine.sin`. Nothing is known of it (log 8). -/
opaque sinMagnitude : F64 → F64

/-- What the `n`-th result read made while BUSY is 1 returns: any value (70_reset_and_hazards.md R236, log 7). -/
opaque busyRead : Nat → Word

/-- The PCM value of a sample outside the domain `|s| <= 1.0` that 42_quantizer.md R151 states: not stated by the spec, and
only in states no run reaches (log 11). -/
opaque unstatedPcm : F64 → Sample

end Sys2Proof.Config
end

