-- ==== Sys2Proof/Machine/State.lean ====
section
/-! DEFINITION. The state of the block (10_state.md), the two agents' turns (43_control.md R177), and reset (10_state.md R51). -/

namespace Sys2Proof.Machine

/-- `STATUS.PHASE` (10_state.md R34). Value 3 is never produced (R38), so it has no constructor. -/
inductive Phase where
  | assembling
  | normalized
  | quantized
  deriving DecidableEq, Repr

/-- The error codes (60_exceptions.md R201). Codes 7..15 are never produced (R38), so they have no constructor. -/
inductive ErrCode where
  | noError
  | illegalCmd
  | busyWrite
  | sequence
  | badArg
  | capacity
  | numeric
  deriving DecidableEq, Repr

/-- The width of a bus access (20_memory.md R60). -/
inductive Width where
  | bits8
  | bits16
  | bits32
  | bits64
  deriving DecidableEq, Repr

/-- One bus access of the host at a byte address (20_memory.md R60). The data of a write that is not 32 bits wide has no
effect, so one 32-bit word stands for it. -/
inductive Access where
  | read (width : Width) (addr : Nat)
  | write (width : Width) (addr : Nat) (data : Word)
  deriving DecidableEq, Repr

/-- One turn of a run (43_control.md R177; reset: 70_reset_and_hazards.md R230; log 4). -/
inductive Turn where
  /-- The host makes one bus access. -/
  | access (a : Access)
  /-- The reset input arrives. -/
  | reset
  /-- The engine has the turn: its step if a command is pending, nothing otherwise. -/
  | engine
  deriving DecidableEq, Repr

/-- The registers of the map (10_state.md R30). -/
inductive Reg where
  | cmd
  | status
  | freqLo
  | freqHi
  | ampLo
  | ampHi
  | durLo
  | durHi
  | len
  | pcmLen
  | peakLo
  | peakHi
  | sigIdx
  | sigDataLo
  | sigDataHi
  | capacity
  deriving DecidableEq, Repr

/-- What a mapped offset names (20_memory.md R64). -/
inductive Target where
  /-- A register of 10_state.md R30. -/
  | reg (r : Reg)
  /-- Word `k` of the PCM window (20_memory.md R62). -/
  | window (k : Nat)
  deriving DecidableEq, Repr

/-- Why an access does not take place. -/
inductive Fault where
  /-- Raised by the bus's address decode for an access that is not an aligned 32-bit access to a mapped offset (20_memory.md
  R60, R64). It is the response to that access (R214): it is logged in `State.responses` and the run goes on, so no step ends
  in it. Safe: it is the spec's own response, and it changes nothing the block holds. -/
  | busError
  deriving DecidableEq, Repr

/-- Why a command has no meaning. -/
inductive Refusal where
  /-- Raised only by an arm of `exec` for an instruction the model gives no meaning; no arm does. Safe: the run stops. -/
  | notModelled (mnemonic : String)
  deriving DecidableEq, Repr

/-- The bus's answer to one access of the host (log 13). -/
inductive Response where
  /-- A read of a mapped offset returned this word. -/
  | data (v : Word)
  /-- A write to a mapped offset was taken from the bus, whether it was stored, ignored or dropped. -/
  | written
  /-- The access did not take place (20_memory.md R64). -/
  | error (f : Fault)
  deriving DecidableEq, Repr

/-- The two buffers, each as the list of its defined cells (10_state.md R48, R49). Equal contents are equal lists, so this is
their one canonical form; a cell at or beyond LEN or PCM_LEN has no observable value and is not held (log 2). -/
structure Memory where
  /-- `SIG[0..LEN-1]`; its length is LEN (R42). -/
  sig : List F64
  /-- `PCM[0..PCM_LEN-1]`; its length is PCM_LEN (R43). -/
  pcm : List Sample
  deriving DecidableEq, Repr

/-- Everything the spec gives the block, and the model's own `schedule`, `responses` and `draws`. -/
structure State where
  /-- The parameters MAX_SAMPLES (CAPACITY, 10_state.md R47) and BASE; no step writes them (log 1). -/
  params : Config.Params
  /-- `FREQ_LO` (10_state.md R39). -/
  freqLo : Word
  /-- `FREQ_HI` (10_state.md R39). -/
  freqHi : Word
  /-- `AMP_LO` (10_state.md R40). -/
  ampLo : Word
  /-- `AMP_HI` (10_state.md R40). -/
  ampHi : Word
  /-- `DUR_LO` (10_state.md R41). -/
  durLo : Word
  /-- `DUR_HI` (10_state.md R41). -/
  durHi : Word
  /-- `STATUS.PHASE` (10_state.md R34). -/
  phase : Phase
  /-- `STATUS.ERR` (10_state.md R35). -/
  err : Bool
  /-- `STATUS.ERRCODE` (10_state.md R36). -/
  errCode : ErrCode
  /-- `STATUS.SILENT` (10_state.md R37). -/
  silent : Bool
  /-- `PEAK` (10_state.md R44). -/
  peak : F64
  /-- `SIG_IDX` (10_state.md R45). -/
  sigIdx : Word
  /-- The signal and PCM buffers, whose lengths are `LEN` and `PCM_LEN` (10_state.md R42, R43, R48, R49). -/
  mem : Memory
  /-- `PENDING` (10_state.md R50); `STATUS.BUSY` is 1 exactly when it holds a word (log 3). -/
  pending : Option Word
  /-- The model's own: the turns still to come; when there is none, the engine has the turn (log 4). -/
  schedule : List Turn
  /-- The model's own: the bus's answers so far, newest first (log 13). -/
  responses : List Response
  /-- The model's own: how many result reads were made while BUSY was 1 (70_reset_and_hazards.md R236, log 7). -/
  draws : Nat
  deriving DecidableEq, Repr

/-- The reset values of 10_state.md R51, on a block with the parameters `p`. -/
def State.resetWith (p : Config.Params) : State where
  params := p
  freqLo := 0
  freqHi := 0
  ampLo := 0
  ampHi := 0
  durLo := 0x9999999A
  durHi := 0x3FA99999
  phase := .assembling
  err := false
  errCode := .noError
  silent := false
  peak := 0
  sigIdx := 0
  mem := { sig := [], pcm := [] }
  pending := none
  schedule := []
  responses := []
  draws := 0

/-- The machine right after reset (10_state.md R51; the parameters: log 1). -/
def State.reset : State := State.resetWith Config.defaultParams

end Sys2Proof.Machine
end

