-- ==== Sys2Proof/Machine/Flags.lean ====
section
/-! DEFINITION. The fields of STATUS and the word they make (10_state.md R32 to R38). -/

namespace Sys2Proof.Machine

open Sys2Proof

/-- The value of PHASE (10_state.md R34). -/
def phaseBits : Phase → BitVec 2
  | .assembling => 0
  | .normalized => 1
  | .quantized => 2

/-- The value of ERRCODE (60_exceptions.md R201). -/
def errCodeBits : ErrCode → BitVec 4
  | .noError => 0
  | .illegalCmd => 1
  | .busyWrite => 2
  | .sequence => 3
  | .badArg => 4
  | .capacity => 5
  | .numeric => 6

/-- `STATUS.BUSY`: 1 exactly when PENDING is non-empty (10_state.md R33, R50). -/
def State.busy (s : State) : Bool := s.pending.isSome

/-- `STATUS`: bits 31:9 zero, SILENT, ERRCODE, ERR, PHASE, BUSY (10_state.md R32, R38). -/
def State.status (s : State) : Word :=
  (0 : BitVec 23) ++ BitVec.ofBool s.silent ++ errCodeBits s.errCode ++ BitVec.ofBool s.err ++ phaseBits s.phase
    ++ BitVec.ofBool s.busy

end Sys2Proof.Machine
end

