-- ==== Sys2Proof/Machine/Binary64.lean ====
section
/-! DEFINITION. Binary64 arithmetic (00_scope.md R11, R12): operands are converted to exact integers, the result is computed
exactly, and one function rounds it. Every finite binary64 value is a whole number of units of 2^-1074. -/

namespace Sys2Proof.F64

/-- The magnitude pattern of the infinities. -/
def infMag : Nat := 0x7FF0000000000000

/-- The magnitude pattern of 1.0. -/
def oneMag : Nat := 0x3FF0000000000000

/-- How many units of 2^-1074 make 1. -/
def unit : Nat := 2 ^ 1074

/-- The sign bit. -/
def sign (x : F64) : Bool := decide (2 ^ 63 ≤ x.toNat)

/-- The magnitude pattern: the bits below the sign bit. -/
def mag (x : F64) : Nat := x.toNat % 2 ^ 63

/-- The value with a sign bit and a magnitude pattern. -/
def ofMag (neg : Bool) (m : Nat) : F64 := BitVec.ofNat 64 (if neg then 2 ^ 63 + m else m)

/-- `+0.0` -/
def zero : F64 := 0

/-- `1.0` -/
def one : F64 := 0x3FF0000000000000

/-- `-1.0` -/
def negOne : F64 := 0xBFF0000000000000

/-- `2.0` -/
def two : F64 := 0x4000000000000000

/-- `0.5` -/
def half : F64 := 0x3FE0000000000000

/-- The NaN an operation returns. Which NaN it is cannot be observed: no register or buffer cell ever holds the result of an
operation that is a NaN (41_synthesizer.md R111; DESIGN CHOICE, safe, log 10). -/
def nan : F64 := 0x7FF8000000000000

/-- Is it a NaN. -/
def isNaN (x : F64) : Bool := decide (infMag < mag x)

/-- Is it an infinity. -/
def isInf (x : F64) : Bool := decide (mag x = infMag)

/-- `isFinite` (00_scope.md R11). -/
def isFinite (x : F64) : Bool := decide (mag x < infMag)

/-- Is it `+0.0` or `-0.0`. -/
def isZero (x : F64) : Bool := decide (mag x = 0)

/-- The magnitude, in units of 2^-1074, of the finite value with magnitude pattern `m`: a subnormal's pattern is its
magnitude, and a normal value has the implicit bit 2^52 and the exponent field above it. -/
def unitsOfMag (m : Nat) : Nat :=
  if m / 2 ^ 52 = 0 then m else (m % 2 ^ 52 + 2 ^ 52) * 2 ^ (m / 2 ^ 52 - 1)

/-- The magnitude of a finite value in units of 2^-1074. -/
def units (x : F64) : Nat := unitsOfMag (mag x)

/-- A finite value in units of 2^-1074, exactly. -/
def toInt (x : F64) : Int := if sign x then -(units x : Int) else units x

/-- The value of a finite pattern as a rational number, for statements. -/
def toRat (x : F64) : ℚ := (toInt x : ℚ) / (unit : ℚ)

/-- `num / den` rounded to the nearest natural number, ties to even. -/
def divNearestEven (num den : Nat) : Nat :=
  if 2 * (num % den) < den then num / den
  else if den < 2 * (num % den) then num / den + 1
  else num / den + (num / den) % 2

/-- The position of the highest 1 bit of `n`, for `n < 2^(2^k)`, by halving the range `k` times. -/
def highBit : Nat → Nat → Nat
  | 0, _ => 0
  | k + 1, n => if 2 ^ 2 ^ k ≤ n then 2 ^ k + highBit k (n / 2 ^ 2 ^ k) else highBit k n

/-- How many low bits of `n` lie beyond its 53 highest (13 halvings cover every number below 2^8192). -/
def excessBits (n : Nat) : Nat := highBit 13 n - 52

/-- The magnitude pattern nearest to `num / den` units, ties to even, with gradual underflow and overflow to infinity
(00_scope.md R11). With `s` the quotient's bits beyond 53, the rounded 53-bit number plus `s * 2^52` is the pattern: a carry
out of the 53 bits moves to the next exponent by itself. -/
def roundMag (num den : Nat) : Nat :=
  min (excessBits (num / den) * 2 ^ 52 + divNearestEven num (den * 2 ^ excessBits (num / den))) infMag

/-- The binary64 value nearest to `± num / den` units. -/
def round (neg : Bool) (num den : Nat) : F64 := ofMag neg (roundMag num den)

/-- The binary64 value nearest to a whole number of units; an exact zero has the given sign. -/
def roundInt (zeroNeg : Bool) (n : Int) : F64 := if n = 0 then ofMag zeroNeg 0 else round (decide (n < 0)) n.natAbs 1

/-- `v` with its sign bit inverted. -/
def neg (x : F64) : F64 := ofMag (!sign x) (mag x)

/-- `abs(v)`: `v` with its sign bit cleared (00_scope.md R12). -/
def abs (x : F64) : F64 := ofMag false (mag x)

/-- `a + b` (00_scope.md R11): an exact zero sum is `-0.0` only when both operands are negative zeros. -/
def add (a b : F64) : F64 :=
  if isNaN a || isNaN b then nan
  else if isInf a then (if isInf b && (sign a != sign b) then nan else a)
  else if isInf b then b
  else roundInt (sign a && sign b) (toInt a + toInt b)

/-- `a - b` (00_scope.md R11). -/
def sub (a b : F64) : F64 := add a (neg b)

/-- `a * b` (00_scope.md R11). -/
def mul (a b : F64) : F64 :=
  if isNaN a || isNaN b then nan
  else if isInf a || isInf b then (if isZero a || isZero b then nan else ofMag (sign a != sign b) infMag)
  else round (sign a != sign b) (units a * units b) unit

/-- `a / b` (00_scope.md R11). -/
def div (a b : F64) : F64 :=
  if isNaN a || isNaN b then nan
  else if isInf a then (if isInf b then nan else ofMag (sign a != sign b) infMag)
  else if isInf b then ofMag (sign a != sign b) 0
  else if isZero b then (if isZero a then nan else ofMag (sign a != sign b) infMag)
  else round (sign a != sign b) (units a * unit) (units b)

/-- `float(n)` for a natural number (00_scope.md R11; exact below 2^53). -/
def ofNat (n : Nat) : F64 := round false (n * unit) 1

/-- The order of the non-NaN patterns, infinities included; the two zeros are equal. -/
def key (x : F64) : Int := if sign x then -(mag x : Int) else mag x

/-- `a < b` (00_scope.md R11): false when either is a NaN. -/
def lt (a b : F64) : Bool := !isNaN a && !isNaN b && decide (key a < key b)

/-- `a <= b` (00_scope.md R11): false when either is a NaN. -/
def le (a b : F64) : Bool := !isNaN a && !isNaN b && decide (key a ≤ key b)

/-- `a == b` (00_scope.md R11): `-0.0 == +0.0`, and false when either is a NaN. -/
def eq (a b : F64) : Bool := !isNaN a && !isNaN b && decide (key a = key b)

/-- `floor(v)` (00_scope.md R12): the largest integer at or below `v`, with `floor(-0.0) = -0.0`; an infinity or a NaN is
itself. -/
def floor (x : F64) : F64 :=
  if isFinite x then roundInt (sign x) (toInt x / (unit : Int) * (unit : Int)) else x

/-- `SIGN(v)` (00_scope.md R12): a NaN is itself. -/
def signum (x : F64) : F64 :=
  if isNaN x then x else if lt zero x then one else if lt x zero then negOne else zero

/-- `round_away(v)` of a finite `v` (00_scope.md R12): the nearest integer, a half going to the larger magnitude. -/
def roundAway (x : F64) : Int :=
  if sign x then -(((2 * units x + unit) / (2 * unit) : Nat) : Int) else ((2 * units x + unit) / (2 * unit) : Nat)

/-- `max` over a list of values that are `+0.0` or greater (00_scope.md R12, used on `abs` values only); `+0.0` for none. -/
def maxList (xs : List F64) : F64 := xs.foldl (fun m x => if lt m x then x else m) zero

end Sys2Proof.F64
end

