-- ==== Sys2Proof/Machine/Operands.lean ====
section
/-! DEFINITION. The fixed constants (00_scope.md R6) and the operands a command reads (30_encoding.md R84, 10_state.md R39 to
R44). -/

namespace Sys2Proof.Machine

open Sys2Proof

/-- `K_RATE = 44100.0` (00_scope.md R6). -/
def kRate : F64 := 0x40E5888000000000

/-- `K_FS = 32767.0` (00_scope.md R6). -/
def kFs : F64 := 0x40DFFFC000000000

/-- `TWO_PI` (00_scope.md R6). -/
def twoPi : F64 := 0x401921FB54442D18

/-- A binary64 register pair: HI holds bits 63:32, LO bits 31:0 (10_state.md R39, 20_memory.md R61). -/
def pair (hi lo : Word) : F64 := hi ++ lo

/-- Bits 31:0 of a binary64 pattern. -/
def loWord (v : F64) : Word := v.extractLsb' 0 32

/-- Bits 63:32 of a binary64 pattern. -/
def hiWord (v : F64) : Word := v.extractLsb' 32 32

/-- `reg(FREQ)` (10_state.md R39). -/
def State.freq (s : State) : F64 := pair s.freqHi s.freqLo

/-- `reg(AMP)` (10_state.md R40). -/
def State.amp (s : State) : F64 := pair s.ampHi s.ampLo

/-- `reg(DUR)` (10_state.md R41). -/
def State.dur (s : State) : F64 := pair s.durHi s.durLo

/-- `reg(LEN)` as a number (10_state.md R42). -/
def State.len (s : State) : Nat := s.mem.sig.length

/-- `reg(PCM_LEN)` as a number (10_state.md R43). -/
def State.pcmLen (s : State) : Nat := s.mem.pcm.length

/-- The signal cell that SIG_IDX selects, +0.0 at or beyond LEN (10_state.md R46). -/
def State.sigData (s : State) : F64 := s.mem.sig.getD s.sigIdx.toNat 0

/-- `P(i)`: the 16-bit pattern of PCM sample `i`, 0 at or beyond PCM_LEN (20_memory.md R62). -/
def State.pcmAt (s : State) (i : Nat) : Sample := s.mem.pcm.getD i 0

end Sys2Proof.Machine
end

