-- ==== Sys2Proof/Machine/Sine.lean ====
section
/-! DEFINITION. The parameter `SIN` (00_scope.md R8). P1 to P4 fix the zeros, the NaNs and the sign; the magnitude of every
other result is free. -/

namespace Sys2Proof.Machine

open Sys2Proof

/-- The first 1252 bits of pi: pi times 2^1250, rounded down (PRESUMED, log 8). -/
def piScaled : Nat :=
  0xc90fdaa22168c234c4c6628b80dc1cd129024e088a67cc74020bbea63b139b22514a08798e3404ddef9519b3cd3a431b302b0a6df25f14374fe1356d6d51c245e485b576625e7ec6f44c42e9a637ed6b0bff5cb6f406b7edee386bfb5a899fa5ae9f24117c4b1fe649286651ece45b3dc2007cb8a163bf0598da48361c55d39a69163fa8fd24cf5f83655d23dca3ad961c62f356208552bb9ed529077

/-- The sign of the real sine of a finite nonzero `x` (00_scope.md R8, P3): the sine of a positive number is negative exactly
when an odd number of whole multiples of pi lie below it, and the sine is odd. -/
def sineNegative (x : F64) : Bool := F64.sign x != decide ((F64.units x * 2 ^ 176 / piScaled) % 2 = 1)

/-- The magnitude pattern of the sine of a finite nonzero `x`: free between the smallest nonzero value and 1.0 (00_scope.md
R8, P2 and P3; log 8). -/
def sineMag (x : F64) : Nat := max 1 (min (F64.mag (Config.sinMagnitude x)) F64.oneMag)

/-- `SIN` (00_scope.md R8): P1 on the zeros, P4 on the infinities and NaNs, P2 and P3 elsewhere. -/
def sin (x : F64) : F64 :=
  if F64.isFinite x then (if F64.isZero x then x else F64.ofMag (sineNegative x) (sineMag x)) else F64.nan

/-- `SIGN(SIN(x))`, from P1, P3 and P4 alone, so that it can be evaluated although the magnitude of `SIN` is free (log 9). -/
def sineSign (x : F64) : F64 :=
  if F64.isFinite x then
    (if F64.isZero x then F64.zero else if sineNegative x then F64.negOne else F64.one)
  else F64.nan

end Sys2Proof.Machine
end

