-- ==== Sys2Proof/Machine/Ops.lean ====
section
/-! DEFINITION. The operations the commands share: the error entry and its return (60_exceptions.md R209, R212), running a
command's pseudocode (00_scope.md R13, R14), issue and completion (43_control.md R175, R176), the reset event
(70_reset_and_hazards.md R230), and the operations on the two buffers (10_state.md R48, R49). -/

namespace Sys2Proof.Machine

open Sys2Proof

/-- `error_entry(code)`: the first code wins, and ERR is sticky (60_exceptions.md R209, R210). -/
def State.errorEntry (code : ErrCode) (s : State) : State :=
  { s with err := true, errCode := if s.err then s.errCode else code }

/-- The return from an error: ERR and ERRCODE become 0 and nothing else changes (60_exceptions.md R212, 43_control.md R172). -/
def State.clearError (s : State) : State := { s with err := false, errCode := .noError }

/-- The state a command's pseudocode leaves: a raise discards its writes and performs the error entry (00_scope.md R13, R14). -/
def State.settle (s : State) : Except ErrCode State → State
  | .ok s' => s'
  | .error code => s.errorEntry code

/-- Running a command's pseudocode as one atomic step, which never ends the run (00_scope.md R14, 60_exceptions.md R200). -/
def runCommand (body : State → Except ErrCode State) (s : State) : Host.Outcome State Fault Refusal :=
  .next (s.settle (body s))

/-- `PENDING <- w; BUSY <- 1` (43_control.md R175). -/
def State.accept (w : Word) (s : State) : State := { s with pending := some w }

/-- `PENDING <- empty; BUSY <- 0` (43_control.md R176). -/
def State.complete (s : State) : State := { s with pending := none }

/-- The word of `CLRERR`, the only one accepted while ERR is 1 (43_control.md R172, R175). -/
def clrerrWord : Word := 0x00000002

/-- `issue(w)`, the effect of a bus write to CMD (43_control.md R175, 60_exceptions.md R203, R211). -/
def State.issue (w : Word) (s : State) : State :=
  if s.busy then s.errorEntry .busyWrite
  else if s.err && w != clrerrWord then s
  else s.accept w

/-- The reset event: every piece of the block's state takes its reset value and a pending command is discarded
(70_reset_and_hazards.md R230, 10_state.md R51). The parameters are the block's constants, and the schedule, the responses and
the draws are not the block's state (log 18). -/
def State.resetEvent (s : State) : State :=
  { State.resetWith s.params with schedule := s.schedule, responses := s.responses, draws := s.draws }

/-- `SIG[LEN + n] <- seg[n]` for the whole segment, and `LEN <- LEN + N` (41_synthesizer.md R112). -/
def State.appendSegment (seg : List F64) (s : State) : State :=
  { s with mem := { s.mem with sig := s.mem.sig ++ seg } }

/-- Every defined cell of SIG rewritten in place (42_quantizer.md R142). -/
def State.rewriteSig (f : F64 → F64) (s : State) : State :=
  { s with mem := { s.mem with sig := s.mem.sig.map f } }

/-- `PCM[i] <- f(SIG[i])` for `i < LEN`, and `PCM_LEN <- LEN` (42_quantizer.md R150). -/
def State.fillPcm (f : F64 → Sample) (s : State) : State :=
  { s with mem := { s.mem with pcm := s.mem.sig.map f } }

/-- `LEN <- 0; PCM_LEN <- 0` (43_control.md R171). -/
def State.emptyBuffers (s : State) : State := { s with mem := { sig := [], pcm := [] } }

/-- The form the buffers have: both lengths within MAX_SAMPLES (10_state.md R53 I1, R49), every signal cell finite (R53 I3). -/
def Memory.wf (maxSamples : Nat) (m : Memory) : Bool :=
  decide (m.sig.length ≤ maxSamples) && decide (m.pcm.length ≤ maxSamples) && m.sig.all F64.isFinite

end Sys2Proof.Machine
end

