-- ==== Sys2Proof/Machine/Bus.lean ====
section
/-! DEFINITION. The bus side: address decode, reads and writes (20_memory.md R60 to R66, 70_reset_and_hazards.md R235 to R237). -/

namespace Sys2Proof.Machine

open Sys2Proof

/-- The register at an offset (10_state.md R30). -/
def regAt (off : Nat) : Option Reg :=
  match off with
  | 0x000 => some .cmd
  | 0x004 => some .status
  | 0x008 => some .freqLo
  | 0x00C => some .freqHi
  | 0x010 => some .ampLo
  | 0x014 => some .ampHi
  | 0x018 => some .durLo
  | 0x01C => some .durHi
  | 0x020 => some .len
  | 0x024 => some .pcmLen
  | 0x028 => some .peakLo
  | 0x02C => some .peakHi
  | 0x030 => some .sigIdx
  | 0x034 => some .sigDataLo
  | 0x038 => some .sigDataHi
  | 0x03C => some .capacity
  | _ => none

/-- The number of words of the PCM window, `ceil(MAX_SAMPLES/2)` (20_memory.md R62). -/
def windowWords (maxSamples : Nat) : Nat := (maxSamples + 1) / 2

/-- The address decode of 20_memory.md R64, of an aligned offset. -/
def decodeOffset (maxSamples off : Nat) : Option Target :=
  match regAt off with
  | some r => some (.reg r)
  | none =>
    if 0x1000 ≤ off ∧ off < 0x1000 + 4 * windowWords maxSamples then some (.window ((off - 0x1000) / 4)) else none

/-- The target of an access, or a bus error: only an aligned 32-bit access at `BASE + off`, `off` a 32-bit offset, to a mapped
offset takes place (20_memory.md R60, R64; log 14). -/
def decodeAccess (p : Config.Params) (width : Width) (addr : Nat) : Except Fault Target :=
  if width = .bits32 ∧ p.base ≤ addr ∧ addr - p.base < 2 ^ 32 ∧ (addr - p.base) % 4 = 0 then
    match decodeOffset p.maxSamples (addr - p.base) with
    | some t => .ok t
    | none => .error .busError
  else .error .busError

/-- What a register holds (10_state.md R30 to R47). -/
def State.readReg (s : State) : Reg → Word
  | .cmd => 0
  | .status => s.status
  | .freqLo => s.freqLo
  | .freqHi => s.freqHi
  | .ampLo => s.ampLo
  | .ampHi => s.ampHi
  | .durLo => s.durLo
  | .durHi => s.durHi
  | .len => BitVec.ofNat 32 s.len
  | .pcmLen => BitVec.ofNat 32 s.pcmLen
  | .peakLo => loWord s.peak
  | .peakHi => hiWord s.peak
  | .sigIdx => s.sigIdx
  | .sigDataLo => loWord s.sigData
  | .sigDataHi => hiWord s.sigData
  | .capacity => BitVec.ofNat 32 s.params.maxSamples

/-- What a mapped word holds; window word `k` is `P(2k+1) : P(2k)` (20_memory.md R62). -/
def State.readTarget (s : State) : Target → Word
  | .reg r => s.readReg r
  | .window k => s.pcmAt (2 * k + 1) ++ s.pcmAt (2 * k)

/-- The result registers and the window, whose reads are free while BUSY is 1 (70_reset_and_hazards.md R236). -/
def isResult : Target → Bool
  | .window _ => true
  | .reg .len => true
  | .reg .pcmLen => true
  | .reg .peakLo => true
  | .reg .peakHi => true
  | .reg .sigDataLo => true
  | .reg .sigDataHi => true
  | .reg .cmd => false
  | .reg .status => false
  | .reg .freqLo => false
  | .reg .freqHi => false
  | .reg .ampLo => false
  | .reg .ampHi => false
  | .reg .durLo => false
  | .reg .durHi => false
  | .reg .sigIdx => false
  | .reg .capacity => false

/-- Adds the bus's answer to an access. -/
def State.respond (r : Response) (s : State) : State := { s with responses := r :: s.responses }

/-- A read of a mapped word: exact and without side effect (20_memory.md R65), except that a result read while BUSY is 1
returns any value, a fresh one each time (70_reset_and_hazards.md R236, log 7). -/
def State.busRead (t : Target) (s : State) : State :=
  if s.busy && isResult t then { s.respond (.data (Config.busyRead s.draws)) with draws := s.draws + 1 }
  else s.respond (.data (s.readTarget t))

/-- A write to an argument register: dropped with `BUSY_WRITE` while BUSY is 1 (70_reset_and_hazards.md R235). -/
def State.writeArg (store : State → State) (s : State) : State :=
  if s.busy then s.errorEntry .busyWrite else store s

/-- The effect of a write to a register (20_memory.md R65, 43_control.md R175, 70_reset_and_hazards.md R235, R237). -/
def State.writeReg (r : Reg) (v : Word) (s : State) : State :=
  match r with
  | .cmd => s.issue v
  | .freqLo => s.writeArg fun s => { s with freqLo := v }
  | .freqHi => s.writeArg fun s => { s with freqHi := v }
  | .ampLo => s.writeArg fun s => { s with ampLo := v }
  | .ampHi => s.writeArg fun s => { s with ampHi := v }
  | .durLo => s.writeArg fun s => { s with durLo := v }
  | .durHi => s.writeArg fun s => { s with durHi := v }
  | .sigIdx => { s with sigIdx := v }
  | .status => s
  | .len => s
  | .pcmLen => s
  | .peakLo => s
  | .peakHi => s
  | .sigDataLo => s
  | .sigDataHi => s
  | .capacity => s

/-- The effect of a write to a mapped word; the window ignores it (20_memory.md R62, R65). -/
def State.writeTarget (t : Target) (v : Word) (s : State) : State :=
  match t with
  | .reg r => s.writeReg r v
  | .window _ => s

/-- One access of the host, with the bus's answer; a bus error changes nothing else (20_memory.md R64, 60_exceptions.md R214). -/
def State.busAccess (a : Access) (s : State) : State :=
  match a with
  | .read width addr =>
    match decodeAccess s.params width addr with
    | .ok t => s.busRead t
    | .error f => s.respond (.error f)
  | .write width addr v =>
    match decodeAccess s.params width addr with
    | .ok t => (s.writeTarget t v).respond .written
    | .error f => s.respond (.error f)

/-- The byte at byte offset `off` of the window, as the little-endian bus lays it out (20_memory.md R61, R62); `none` where
nothing is mapped. It is the state's own byte, whatever a read while BUSY returns. -/
def State.byteAt (s : State) (off : Nat) : Option Byte :=
  (decodeOffset s.params.maxSamples (off - off % 4)).map fun t => (s.readTarget t).extractLsb' (8 * (off % 4)) 8

end Sys2Proof.Machine
end

