-- ==== Sys2Proof/Machine/Control.lean ====
section
/-! DEFINITION. The control commands (43_control.md R170 to R172). -/

namespace Sys2Proof.Machine

/-- `NOP` (43_control.md R170). -/
def execNop (s : State) : Host.Outcome State Fault Refusal := runCommand (fun s => .ok s) s

/-- `CLEAR` (43_control.md R171). -/
def execClear (s : State) : Host.Outcome State Fault Refusal :=
  runCommand (fun s => .ok { s.emptyBuffers with peak := F64.zero, phase := .assembling, silent := false }) s

/-- `CLRERR` (43_control.md R172). -/
def execClrerr (s : State) : Host.Outcome State Fault Refusal := runCommand (fun s => .ok s.clearError) s

end Sys2Proof.Machine
end

