-- ==== Sys2Proof/Machine/Quantizer.lean ====
section
/-! DEFINITION. The normalizer and the PCM quantizer (42_quantizer.md). -/

namespace Sys2Proof.Machine

open Sys2Proof

/-- The peak magnitude of a signal, `+0.0` for an empty one (42_quantizer.md R140, R141). -/
def peakOf (sig : List F64) : F64 := F64.maxList (sig.map F64.abs)

/-- The body of `NORM` (42_quantizer.md R140): an empty signal or a peak that is not above 0 leaves the signal and sets SILENT
(R143); otherwise every sample is divided by the peak (R142). -/
def normBody (s : State) : State :=
  if s.len = 0 then { s with peak := F64.zero, silent := true, phase := .normalized }
  else if F64.lt F64.zero (peakOf s.mem.sig) then
    { s.rewriteSig (fun x => F64.div x (peakOf s.mem.sig)) with
      peak := peakOf s.mem.sig, silent := false, phase := .normalized }
  else { s with peak := peakOf s.mem.sig, silent := true, phase := .normalized }

/-- `Q(s)` as an integer, for `|s| <= 1.0` (42_quantizer.md R151). -/
def quantizeInt (x : F64) : Int := F64.roundAway (F64.mul x kFs)

/-- `i16bits(Q(s))` (42_quantizer.md R151, R153); outside the stated domain `|s| <= 1.0` the value is free (log 11). -/
def quantize (x : F64) : Sample :=
  if F64.le (F64.abs x) F64.one then BitVec.ofInt 16 (quantizeInt x) else Config.unstatedPcm x

/-- The body of `QUANT` (42_quantizer.md R150, R154). -/
def quantBody (s : State) : Except ErrCode State :=
  if s.phase = .assembling then .error .sequence
  else .ok { s.fillPcm quantize with phase := .quantized }

/-- `NORM` (42_quantizer.md R140). -/
def execNorm (s : State) : Host.Outcome State Fault Refusal := runCommand (fun s => .ok (normBody s)) s

/-- `QUANT` (42_quantizer.md R150). -/
def execQuant (s : State) : Host.Outcome State Fault Refusal := runCommand quantBody s

end Sys2Proof.Machine
end

