-- ==== Sys2Proof/Machine/Synth.lean ====
section
/-! DEFINITION. The waveform synthesizer (41_synthesizer.md). -/

namespace Sys2Proof.Machine

open Sys2Proof

/-- `check_args(f, a, d)`: does it pass (41_synthesizer.md R101). -/
def argsOk (f a d : F64) : Bool :=
  F64.isFinite f && F64.isFinite a && F64.isFinite d && !F64.lt d F64.zero

/-- `count(d)`, `none` standing for `+inf` (41_synthesizer.md R102). -/
def sampleCount (d : F64) : Option Nat :=
  if F64.isFinite (F64.mul kRate d) then some (F64.roundAway (F64.mul kRate d)).toNat else none

/-- `time(n, d, N)` (41_synthesizer.md R104). -/
def timeAt (n : Nat) (d : F64) (count : Nat) : F64 := F64.mul (F64.ofNat n) (F64.div d (F64.ofNat count))

/-- `x(f, t)`, the phase argument of Sine and Square (41_synthesizer.md R105). -/
def phaseArg (f t : F64) : F64 := F64.mul (F64.mul twoPi f) t

/-- The sine generator (41_synthesizer.md R106). -/
def sineWave (f t : F64) : F64 := sin (phaseArg f t)

/-- `TRI(p)` (41_synthesizer.md R107). -/
def tri (p : F64) : F64 :=
  F64.sub (F64.mul F64.two (F64.abs (F64.mul F64.two (F64.sub p (F64.floor (F64.add p F64.half)))))) F64.one

/-- The triangle generator (41_synthesizer.md R107). -/
def triangleWave (f t : F64) : F64 := tri (F64.mul f t)

/-- The square generator, `SIGN(SIN(x))` (41_synthesizer.md R108; log 9). -/
def squareWave (f t : F64) : F64 := sineSign (phaseArg f t)

/-- The zeros of an unknown kind (41_synthesizer.md R109). -/
def zeroWave (_f _t : F64) : F64 := F64.zero

/-- `WAVE(kind, f, t)` (41_synthesizer.md R105 to R109). -/
def wave (kind : BitVec 4) : F64 → F64 → F64 :=
  match kind.toNat with
  | 0 => sineWave
  | 1 => triangleWave
  | 2 => squareWave
  | _ => zeroWave

/-- The scaled sample of a generator at time `t` (41_synthesizer.md R110). -/
def scaledSample (gen : F64 → F64 → F64) (f a t : F64) : F64 := F64.mul (gen f t) a

/-- The scaled samples of a segment of `count` samples, in order of `n` (41_synthesizer.md R100, R104, R110). -/
def segmentSamples (gen : F64 → F64 → F64) (f a d : F64) (count : Nat) : List F64 :=
  (List.range count).map fun n => scaledSample gen f a (timeAt n d count)

/-- The part of `SYNTH` after the sample count: the capacity check (41_synthesizer.md R103; `N > MAX_SAMPLES - LEN` over the
integers), the numeric check (R111) and the append (R112). -/
def appendChecked (s : State) (count : Nat) (seg : List F64) : Except ErrCode State :=
  if s.params.maxSamples < s.len + count then .error .capacity
  else if seg.all F64.isFinite then .ok (s.appendSegment seg)
  else .error .numeric

/-- `SYNTH` of 41_synthesizer.md R100 with a generator, its checks in the order SEQUENCE, BAD_ARG, CAPACITY, NUMERIC
(60_exceptions.md R208). -/
def synthBody (gen : F64 → F64 → F64) (s : State) : Except ErrCode State :=
  if s.phase ≠ .assembling then .error .sequence
  else if !argsOk s.freq s.amp s.dur then .error .badArg
  else match sampleCount s.dur with
    | none => .error .capacity
    | some count => appendChecked s count (segmentSamples gen s.freq s.amp s.dur count)

/-- `SYNTH.SIN` (41_synthesizer.md R115). -/
def execSynthSin (s : State) : Host.Outcome State Fault Refusal := runCommand (synthBody (wave 0)) s

/-- `SYNTH.TRI` (41_synthesizer.md R116). -/
def execSynthTri (s : State) : Host.Outcome State Fault Refusal := runCommand (synthBody (wave 1)) s

/-- `SYNTH.SQR` (41_synthesizer.md R117). -/
def execSynthSqr (s : State) : Host.Outcome State Fault Refusal := runCommand (synthBody (wave 2)) s

/-- `SYNTH.ZERO k`: `SYNTH(k)` (41_synthesizer.md R118). -/
def execSynthZero (k : BitVec 4) (s : State) : Host.Outcome State Fault Refusal := runCommand (synthBody (wave k)) s

end Sys2Proof.Machine
end

