-- ==== Sys2Proof/Machine/Dispatch.lean ====
section
/-! DEFINITION. One arm per command (43_control.md R176, `run c`). -/

namespace Sys2Proof.Machine

open Sys2Proof

/-- Running one command: its effect, or the error entry it raises. PENDING and BUSY are the engine step's (log 17). -/
def exec (i : Instr) (s : State) : Host.Outcome State Fault Refusal :=
  match i with
  | .nop => Sys2Proof.Machine.execNop s
  | .clear => Sys2Proof.Machine.execClear s
  | .clrerr => Sys2Proof.Machine.execClrerr s
  | .synthSin => Sys2Proof.Machine.execSynthSin s
  | .synthTri => Sys2Proof.Machine.execSynthTri s
  | .synthSqr => Sys2Proof.Machine.execSynthSqr s
  | .synthZero k => Sys2Proof.Machine.execSynthZero k s
  | .norm => Sys2Proof.Machine.execNorm s
  | .quant => Sys2Proof.Machine.execQuant s

end Sys2Proof.Machine
end

