-- ==== Sys2Proof/Machine/Engine.lean ====
section
/-! DEFINITION. The engine step (43_control.md R176), the turns of a run (R177), and where a command is fetched. -/

namespace Sys2Proof.Machine

open Sys2Proof

/-- The outcome with the engine step's last line performed: `PENDING <- empty; BUSY <- 0` (43_control.md R176). -/
def completeOutcome : Host.Outcome State Fault Refusal → Host.Outcome State Fault Refusal
  | .next s => .next s.complete
  | .fault f => .fault f
  | .refused r => .refused r

/-- `engine_step` on a pending word: an `ILLEGAL` word raises ILLEGAL_CMD and has no other effect (43_control.md R176,
60_exceptions.md R202). -/
def engineStep (w : Word) (s : State) : Host.Outcome State Fault Refusal :=
  match decodeWord w with
  | .error _ => .next (s.errorEntry .illegalCmd).complete
  | .ok i => completeOutcome (exec i s)

/-- The engine's turn: its step exactly when PENDING holds a word, otherwise the block is idle (43_control.md R176, R177,
70_reset_and_hazards.md R232). -/
def engineTurn (s : State) : Host.Outcome State Fault Refusal :=
  match s.pending with
  | some w => engineStep w s
  | none => .next s

/-- The turns left after the next one. -/
def State.restOfSchedule (s : State) : State := { s with schedule := s.schedule.tail }

/-- The next turn of the schedule; with none left it is the engine's (43_control.md R177, 70_reset_and_hazards.md R240; log 4). -/
def State.nextTurn (s : State) : Turn := s.schedule.headD .engine

/-- Taking one turn. -/
def takeTurn (t : Turn) (s : State) : Host.Outcome State Fault Refusal :=
  match t with
  | .access a => .next (s.busAccess a)
  | .reset => .next s.resetEvent
  | .engine => engineTurn s

/-- The state in which the word `w` is pending and the engine has the next turn. -/
def State.withPendingNext (w : Word) (s : State) : State :=
  { s with pending := some w, schedule := .engine :: s.schedule }

end Sys2Proof.Machine
end

