-- ==== Sys2Proof/Machine/Step.lean ====
section
/-! DEFINITION. One step of a run (43_control.md R177). -/

namespace Sys2Proof.Machine

open Sys2Proof

/-- One step: the next turn of the schedule is consumed and taken. -/
def step (s : State) : Host.Outcome State Fault Refusal := takeTurn s.nextTurn s.restOfSchedule

/-- `s` with the command word of the table's bits `w` pending and the engine to move: the very next step runs it (log 5). -/
def State.withFetchWord (s : State) (nbits w : Nat) : State := s.withPendingNext (tableWord nbits w)

end Sys2Proof.Machine
end

