-- ==== Sys2Proof/Safety.lean ====
section
/-! DEFINITION. What a good state is, in the terms the claims use (10_state.md R53). -/

namespace Sys2Proof.Machine

open Sys2Proof

/-- `|x| <= 1.0`. -/
def withinOne (x : F64) : Bool := F64.le (F64.abs x) F64.one

/-- The kind a `SYNTH` command has, and none for the other commands (30_encoding.md R83, R87). -/
def synthKind : Instr → Option (BitVec 4)
  | .synthSin => some 0
  | .synthTri => some 1
  | .synthSqr => some 2
  | .synthZero k => some k
  | .nop => none
  | .clear => none
  | .clrerr => none
  | .norm => none
  | .quant => none

/-- The arguments `check_args` accepts (41_synthesizer.md R101). -/
structure GoodArgs (f a d : F64) : Prop where
  freq : F64.isFinite f = true
  amp : F64.isFinite a = true
  dur : F64.isFinite d = true
  notNegative : F64.lt d F64.zero = false

/-- The conditions on the state under which a `SYNTH` reaches its samples, `N` of them: the phase (41_synthesizer.md R113),
the arguments (R101), the sample count (R102) and the room (R103). -/
structure SynthReady (s : State) (N : Nat) : Prop where
  phase : s.phase = .assembling
  args : GoodArgs s.freq s.amp s.dur
  finiteCount : F64.isFinite (F64.mul kRate s.dur) = true
  count : F64.roundAway (F64.mul kRate s.dur) = (N : Int)
  fits : s.len + N ≤ s.params.maxSamples

/-- `y` is the rational number `q` rounded to nearest, ties to even (00_scope.md R11): no finite value is nearer, of two
nearest ones the significand of `y` is even, and `y` is an infinity exactly from half a step above `MAX_F64` on. -/
structure CorrectlyRounded (q : ℚ) (y : F64) : Prop where
  overflow : F64.isInf y = true ↔ (2 : ℚ) ^ 1024 - 2 ^ 970 ≤ |q|
  notNaN : F64.isNaN y = false
  nearest : F64.isFinite y = true → ∀ z : F64, F64.isFinite z = true → |F64.toRat y - q| ≤ |F64.toRat z - q|
  even : F64.isFinite y = true → ∀ z : F64, F64.isFinite z = true → F64.toRat z ≠ F64.toRat y →
    |F64.toRat z - q| = |F64.toRat y - q| → y.getLsbD 0 = false

/-- The offsets of the register table of 10_state.md R30 and of the PCM window (20_memory.md R64). -/
def MappedOffset (maxSamples off : Nat) : Prop :=
  off % 4 = 0 ∧ (off ≤ 0x3C ∨ (0x1000 ≤ off ∧ off < 0x1000 + 4 * ((maxSamples + 1) / 2)))

/-- The invariants I1 to I6 of 10_state.md R53, with the legal parameters (00_scope.md R7, R9), the range of the PCM cells
(10_state.md R49), what `CLEAR` and reset establish while assembling, and the peak sample of a normalized signal
(42_quantizer.md R144). -/
structure Inv (s : State) : Prop where
  /-- 00_scope.md R7, R9. -/
  legal : s.params.Legal
  /-- I1. -/
  lenFits : s.len ≤ s.params.maxSamples
  /-- I2. -/
  pcmLen : s.pcmLen = 0 ∨ s.pcmLen = s.len
  /-- I3. -/
  finite : ∀ x ∈ s.mem.sig, F64.isFinite x = true
  /-- I4. -/
  bounded : s.phase ≠ .assembling → ∀ x ∈ s.mem.sig, withinOne x = true
  /-- I5. -/
  quantized : s.phase = .quantized → s.mem.pcm = s.mem.sig.map quantize
  /-- I6. -/
  noCode : s.err = false → s.errCode = .noError
  /-- 10_state.md R49. -/
  pcmRange : ∀ v ∈ s.mem.pcm, -32767 ≤ v.toInt ∧ v.toInt ≤ 32767
  /-- While assembling there is no PCM sample: `CLEAR` and reset empty the PCM buffer, and nothing else leads back. -/
  assemblingNoPcm : s.phase = .assembling → s.pcmLen = 0
  /-- 42_quantizer.md R144: after a `NORM` that left SILENT = 0 some sample is `1.0` or `-1.0`. -/
  peakSample : s.phase ≠ .assembling → s.silent = false → ∃ x ∈ s.mem.sig, x = F64.one ∨ x = F64.negOne

end Sys2Proof.Machine
end

