-- ==== Sys2Proof/Certificates/Slice0/Obligations.lean ====
section
/-! DEFINITION. The statements for the provers. Each docstring names the rule of spec/ it formalises. -/

open Sys2Proof Sys2Proof.Machine

/-! ### Encoding -/

/-- 30_encoding.md R81, R85, R87 and 20_memory.md R61: the decoder reads every well-formed command back from its four bytes,
whatever bytes follow. -/
def Obligations.DecodeInvertsEncode : Prop :=
  ∀ (i : Instr) (rest : List Byte), i.wf = true → decodeBytes (encodeBytes i ++ rest) = .ok (i, rest)

/-- 30_encoding.md R85, R87: a word that decodes is the word of the command it decodes to, and that command is well formed, so no
two words are one command. -/
def Obligations.EncodeInvertsDecode : Prop :=
  ∀ (w : Word) (i : Instr), decodeWord w = .ok i → i.wf = true ∧ encode i = w

/-- 30_encoding.md R85: of the 2^32 words exactly 21 are legal. -/
def Obligations.ExactlyTwentyOneLegalWords : Prop :=
  ∃ legal : List Word, legal.Nodup ∧ legal.length = 21 ∧ ∀ w : Word, (∃ i, decodeWord w = .ok i) ↔ w ∈ legal

/-- 30_encoding.md R87: the words of the encoding table decode to the commands it lists. -/
def Obligations.EncodingTableWordsDecode : Prop :=
  decodeWord 0x00000000 = .ok .nop ∧ decodeWord 0x00000001 = .ok .clear ∧ decodeWord 0x00000002 = .ok .clrerr ∧
  decodeWord 0x00000003 = .ok .synthSin ∧ decodeWord 0x00000013 = .ok .synthTri ∧ decodeWord 0x00000023 = .ok .synthSqr ∧
  (∀ k : BitVec 4, 3 ≤ k.toNat → decodeWord (0x00000003 ||| (k.setWidth 32 <<< 4)) = .ok (.synthZero k)) ∧
  decodeWord 0x00000004 = .ok .norm ∧ decodeWord 0x00000005 = .ok .quant

/-! ### Steps, turns and reset -/

/-- 43_control.md R176: the engine step on a pending word that decodes runs that command, and then PENDING is empty. The turn
taken is gone from the schedule (the model's own, log 4). -/
def Obligations.StepRunsDecodedCommand : Prop :=
  ∀ (s : State) (w : Word) (i : Instr), s.nextTurn = .engine → s.pending = some w → decodeWord w = .ok i →
    ∃ t, exec i s.restOfSchedule = .next t ∧ step s = .next { t with pending := none }

/-- 60_exceptions.md R202: a pending word with a nonzero RSVD field, an OP in 6..15, or a nonzero KIND with an OP other than 3
raises ILLEGAL_CMD and has no other effect; and no other word does.
(The consumed turn, the logged response and the draw counter are the model's own: log 4, 7, 13.) -/
def Obligations.IllegalWordRaisesIllegalCmd : Prop :=
  (∀ w : Word, (∃ e, decodeWord w = .error e) ↔
    (w.extractLsb' 8 24 ≠ 0 ∨ 6 ≤ (w.extractLsb' 0 4).toNat ∨ (w.extractLsb' 4 4 ≠ 0 ∧ w.extractLsb' 0 4 ≠ 3))) ∧
  ∀ (s : State) (w : Word), s.nextTurn = .engine → s.pending = some w → (∃ e, decodeWord w = .error e) →
    step s = .next { s.restOfSchedule with
      pending := none, err := true, errCode := if s.err then s.errCode else .illegalCmd }

/-- 43_control.md R176, R177 and 70_reset_and_hazards.md R232: with no pending word the engine's turn changes nothing.
(The consumed turn, the logged response and the draw counter are the model's own: log 4, 7, 13.) -/
def Obligations.IdleEngineTurnChangesNothing : Prop :=
  ∀ s : State, s.nextTurn = .engine → s.pending = none → step s = .next s.restOfSchedule

/-- 70_reset_and_hazards.md R230: the reset event discards any pending command and gives every piece of the block's state its
reset value. That it leaves the parameters, and the model's own schedule, responses and draws, is the model's reading (log 18). -/
def Obligations.ResetEventRestoresResetState : Prop :=
  ∀ s : State, s.nextTurn = .reset →
    step s = .next { State.resetWith s.params with
      schedule := s.schedule.tail, responses := s.responses, draws := s.draws }

/-- 10_state.md R51: the reset values of all state, and what the registers read then. -/
def Obligations.ResetStateHoldsListedValues : Prop :=
  ∀ p : Config.Params,
    let s := State.resetWith p
    s.status = 0x00000000 ∧ s.busy = false ∧ s.phase = .assembling ∧ s.err = false ∧ s.errCode = .noError ∧
    s.silent = false ∧ s.freq = F64.zero ∧ s.amp = F64.zero ∧ s.dur = 0x3FA999999999999A ∧
    s.readReg .len = 0 ∧ s.readReg .pcmLen = 0 ∧ s.peak = F64.zero ∧ s.sigIdx = 0 ∧ s.pending = none ∧
    s.readReg .capacity = BitVec.ofNat 32 p.maxSamples ∧
    s.sigData = 0 ∧ ∀ k, s.readTarget (.window k) = 0

/-- 10_state.md R53 at reset: the invariant holds for every legal choice of the parameters, and of the model's own (log 1). -/
def Obligations.ResetSatisfiesStateInvariant : Prop :=
  (∀ p : Config.Params, p.Legal → Inv (State.resetWith p)) ∧ Inv State.reset

/-- 10_state.md R53 (I1 to I6), with 10_state.md R49 and 42_quantizer.md R144: every step keeps the invariant. -/
def Obligations.StepKeepsStateInvariant : Prop :=
  ∀ s t : State, Inv s → step s = .next t → Inv t

/-- 60_exceptions.md R200 and R214: the block raises no traps and a bus error changes no state, so no step of any state ends the
run. That a bus error, too, is only the answer to one access and the run goes on is read from R214 (log 6). -/
def Obligations.StepAlwaysAnswersNextState : Prop :=
  ∀ s : State, ∃ t, step s = .next t

/-- 43_control.md R177 and 70_reset_and_hazards.md R240: a run does not end with a pending command. When the turns of the
schedule are taken, one more step leaves no command pending. -/
def Obligations.NoRunEndsWithPendingCommand : Prop :=
  ∀ s : State, ∃ t, Sys2Proof.core.run (s.schedule.length + 1) s = .next t ∧ t.pending = none ∧ t.schedule = []

/-! ### The control commands -/

/-- 43_control.md R170: `NOP` changes nothing. -/
def Obligations.NopChangesNothing : Prop :=
  ∀ s : State, exec .nop s = .next s

/-- 43_control.md R171: `CLEAR` empties both buffers and sets PEAK, PHASE and SILENT; all else is unchanged. -/
def Obligations.ClearEmptiesBuffers : Prop :=
  ∀ s : State, exec .clear s =
    .next { s with mem := { sig := [], pcm := [] }, peak := F64.zero, phase := .assembling, silent := false }

/-- 43_control.md R172: `CLRERR` clears ERR and ERRCODE; all else is unchanged. -/
def Obligations.ClrerrClearsErrorOnly : Prop :=
  ∀ s : State, exec .clrerr s = .next { s with err := false, errCode := .noError }

/-! ### The synthesizer -/

/-- 41_synthesizer.md R115 with R100, R104, R105, R106, R110, R112: with arguments and a count that pass and a finite phase
argument at every sample, `SYNTH.SIN` appends the scaled sine and changes nothing else, for every admissible `SIN`. -/
def Obligations.SynthSinAppendsScaledSine : Prop :=
  ∀ (s : State) (N : Nat), SynthReady s N →
    (∀ n < N, F64.isFinite (F64.mul (F64.mul twoPi s.freq)
      (F64.mul (F64.ofNat n) (F64.div s.dur (F64.ofNat N)))) = true) →
    exec .synthSin s = .next { s with
      mem := {
        sig := s.mem.sig ++ (List.range N).map fun n =>
          F64.mul (sin (F64.mul (F64.mul twoPi s.freq) (F64.mul (F64.ofNat n) (F64.div s.dur (F64.ofNat N))))) s.amp
        pcm := s.mem.pcm } }

/-- 41_synthesizer.md R116 with R100, R104, R107, R110, R112: with arguments and a count that pass and finite samples,
`SYNTH.TRI` appends the scaled triangle, evaluated as R107 writes it, and changes nothing else. -/
def Obligations.SynthTriAppendsScaledTriangle : Prop :=
  ∀ (s : State) (N : Nat) (p : Nat → F64) (w : Nat → F64), SynthReady s N →
    (∀ n, p n = F64.mul s.freq (F64.mul (F64.ofNat n) (F64.div s.dur (F64.ofNat N)))) →
    (∀ n, w n = F64.sub (F64.mul F64.two (F64.abs (F64.mul F64.two
      (F64.sub (p n) (F64.floor (F64.add (p n) F64.half)))))) F64.one) →
    (∀ n < N, F64.isFinite (F64.mul (w n) s.amp) = true) →
    exec .synthTri s = .next { s with
      mem := {
        sig := s.mem.sig ++ (List.range N).map fun n => F64.mul (w n) s.amp
        pcm := s.mem.pcm } }

/-- 41_synthesizer.md R117 with R100, R104, R105, R108, R110, R112: with arguments and a count that pass and a finite phase
argument at every sample, `SYNTH.SQR` appends the scaled `SIGN(SIN(x))` and changes nothing else. -/
def Obligations.SynthSqrAppendsScaledSign : Prop :=
  ∀ (s : State) (N : Nat), SynthReady s N →
    (∀ n < N, F64.isFinite (F64.mul (F64.mul twoPi s.freq)
      (F64.mul (F64.ofNat n) (F64.div s.dur (F64.ofNat N)))) = true) →
    exec .synthSqr s = .next { s with
      mem := {
        sig := s.mem.sig ++ (List.range N).map fun n =>
          F64.mul (F64.signum (sin (F64.mul (F64.mul twoPi s.freq)
            (F64.mul (F64.ofNat n) (F64.div s.dur (F64.ofNat N)))))) s.amp
        pcm := s.mem.pcm } }

/-- 41_synthesizer.md R118 with R100, R109, R110, R112: with arguments and a count that pass, `SYNTH.ZERO k` appends `N` samples
`+0.0 * a`, never raises NUMERIC, and changes nothing else. -/
def Obligations.SynthZeroAppendsScaledZeros : Prop :=
  ∀ (k : BitVec 4) (s : State) (N : Nat), (Instr.synthZero k).wf = true → SynthReady s N →
    exec (.synthZero k) s = .next { s with
      mem := { sig := s.mem.sig ++ List.replicate N (F64.mul F64.zero s.amp), pcm := s.mem.pcm } }

/-- 41_synthesizer.md R113: outside ASSEMBLING every `SYNTH` raises SEQUENCE, whatever its arguments, and changes nothing else. -/
def Obligations.SynthOutsideAssemblingRaisesSequence : Prop :=
  ∀ (i : Instr) (k : BitVec 4) (s : State), synthKind i = some k → s.phase ≠ .assembling →
    exec i s = .next { s with err := true, errCode := if s.err then s.errCode else .sequence }

/-- 41_synthesizer.md R101: in ASSEMBLING every `SYNTH`, unknown kinds included, raises BAD_ARG and changes nothing else when FREQ
or AMP is not finite or DUR is not finite or below 0, and does not raise it otherwise. -/
def Obligations.SynthChecksArguments : Prop :=
  ∀ (i : Instr) (k : BitVec 4) (s : State), synthKind i = some k → s.phase = .assembling →
    ((F64.isFinite s.freq = false ∨ F64.isFinite s.amp = false ∨ F64.isFinite s.dur = false ∨
        F64.lt s.dur F64.zero = true) →
      exec i s = .next { s with err := true, errCode := if s.err then s.errCode else .badArg }) ∧
    (GoodArgs s.freq s.amp s.dur → s.err = false → s.errCode = .noError →
      ∃ t, exec i s = .next t ∧ t.errCode ≠ .badArg)

/-- 41_synthesizer.md R103 with R102: in ASSEMBLING, with good arguments, a sample count that is infinite or greater than
`MAX_SAMPLES - LEN` raises CAPACITY and appends nothing. -/
def Obligations.SynthBeyondCapacityRaisesCapacity : Prop :=
  ∀ (i : Instr) (k : BitVec 4) (s : State), synthKind i = some k → s.phase = .assembling →
    GoodArgs s.freq s.amp s.dur →
    (F64.isFinite (F64.mul kRate s.dur) = false ∨
      (s.params.maxSamples : Int) - s.len < F64.roundAway (F64.mul kRate s.dur)) →
    exec i s = .next { s with err := true, errCode := if s.err then s.errCode else .capacity }

/-- 41_synthesizer.md R111: when some scaled sample of the segment is not finite, `SYNTH` raises NUMERIC and appends nothing. -/
def Obligations.SynthNonFiniteSampleRaisesNumeric : Prop :=
  ∀ (i : Instr) (k : BitVec 4) (s : State) (N : Nat), synthKind i = some k → SynthReady s N →
    (∃ n < N, F64.isFinite (F64.mul (wave k s.freq
      (F64.mul (F64.ofNat n) (F64.div s.dur (F64.ofNat N)))) s.amp) = false) →
    exec i s = .next { s with err := true, errCode := if s.err then s.errCode else .numeric }

/-- 41_synthesizer.md R108: the square generator is `SIGN(SIN(x))` for every admissible `SIN` (the model evaluates it from the sign
alone, log 9). That its sample is `+0.0` exactly when the phase argument is a zero is what R108 itself marks as derived, from R105
and 00_scope.md R8, P1 and P3. -/
def Obligations.SquareWaveIsSignOfSine : Prop :=
  ∀ f t : F64, squareWave f t = F64.signum (sin (F64.mul (F64.mul twoPi f) t)) ∧
    (squareWave f t = F64.zero ↔ F64.isZero (F64.mul (F64.mul twoPi f) t) = true)

/-- 41_synthesizer.md R107: the triangle of a phase below 2^52 lies in [-1, 1]. -/
def Obligations.TriangleStaysInRange : Prop :=
  ∀ p : F64, F64.isFinite p = true → F64.lt (F64.abs p) 0x4330000000000000 = true →
    F64.le F64.negOne (tri p) = true ∧ F64.le (tri p) F64.one = true

/-! ### The normalizer and the quantizer -/

/-- 42_quantizer.md R140, R141, R143: `NORM` on a finite signal: the peak is `+0.0` for an empty signal and else the largest
magnitude; above 0 it divides every sample, otherwise the signal is left unchanged; PEAK, SILENT and PHASE are set and nothing
else changes. -/
def Obligations.NormFollowsPseudocode : Prop :=
  ∀ s : State, (∀ x ∈ s.mem.sig, F64.isFinite x = true) →
    ∃ peak : F64,
      (s.mem.sig = [] → peak = F64.zero) ∧
      (s.mem.sig ≠ [] → (∃ x ∈ s.mem.sig, peak = F64.abs x) ∧ ∀ x ∈ s.mem.sig, F64.le (F64.abs x) peak = true) ∧
      exec .norm s = .next (
        if F64.lt F64.zero peak then
          { s with mem := { s.mem with sig := s.mem.sig.map fun x => F64.div x peak },
                   peak := peak, silent := false, phase := .normalized }
        else { s with peak := peak, silent := true, phase := .normalized })

/-- 42_quantizer.md R142 (a), (b), (c): a finite sample divided by a positive peak at least its magnitude is at most 1 in
magnitude, is 1 with the sample's sign when the sample is the peak in magnitude, and is the sample when that is a zero. -/
def Obligations.DivisionByPeakStaysWithinOne : Prop :=
  ∀ x peak : F64, F64.isFinite peak = true → F64.lt F64.zero peak = true → F64.le (F64.abs x) peak = true →
    withinOne (F64.div x peak) = true ∧
    (F64.abs x = peak → F64.div x peak = if F64.sign x then F64.negOne else F64.one) ∧
    (F64.isZero x = true → F64.div x peak = x)

/-- 42_quantizer.md R144: after a `NORM` of a finite signal every sample is at most 1 in magnitude, and if SILENT is 0 some sample
is `1.0` or `-1.0`. -/
def Obligations.NormBoundsEverySample : Prop :=
  ∀ s : State, (∀ x ∈ s.mem.sig, F64.isFinite x = true) →
    ∃ t, exec .norm s = .next t ∧ (∀ x ∈ t.mem.sig, withinOne x = true) ∧
      (t.silent = false → ∃ x ∈ t.mem.sig, x = F64.one ∨ x = F64.negOne)

/-- 42_quantizer.md R145: a second `NORM` changes no sample: it changes nothing after a silent one, and sets PEAK to 1.0 and
nothing else otherwise. -/
def Obligations.NormIsIdempotent : Prop :=
  ∀ s : State, (∀ x ∈ s.mem.sig, F64.isFinite x = true) →
    ∃ t, exec .norm s = .next t ∧ exec .norm t = .next (if t.silent then t else { t with peak := F64.one })

/-- 42_quantizer.md R150, R151, R153, R154: `QUANT` raises SEQUENCE in ASSEMBLING and changes nothing else; otherwise, on samples of
magnitude at most 1, it stores `round_away(s * 32767.0)` as 16 bits for each, sets PHASE, and changes nothing else. -/
def Obligations.QuantFollowsPseudocode : Prop :=
  ∀ s : State,
    (s.phase = .assembling →
      exec .quant s = .next { s with err := true, errCode := if s.err then s.errCode else .sequence }) ∧
    (s.phase ≠ .assembling → (∀ x ∈ s.mem.sig, withinOne x = true) →
      exec .quant s = .next { s with
        mem := { s.mem with pcm := s.mem.sig.map fun x => BitVec.ofInt 16 (F64.roundAway (F64.mul x kFs)) },
        phase := .quantized })

/-- 42_quantizer.md R152: the quantized value of a sample of magnitude at most 1 lies in [-32767, 32767] and is the 16-bit value
stored. -/
def Obligations.QuantizedValuesStayInRange : Prop :=
  ∀ x : F64, withinOne x = true →
    -32767 ≤ quantizeInt x ∧ quantizeInt x ≤ 32767 ∧ (quantize x).toInt = quantizeInt x

/-! ### Errors -/

/-- 60_exceptions.md R209, R210, R212: a command raises in a state when it sets ERR on the same state with ERR and ERRCODE 0. A command
that raises changes ERR and ERRCODE and nothing else: ERR becomes 1, and ERRCODE takes a code, not 0, only when ERR was 0. A command
that does not raise, `CLRERR` apart, does the same whatever ERR and ERRCODE are, and leaves both. -/
def Obligations.ErrorsArePrecise : Prop :=
  ∀ (i : Instr) (s t : State), exec i { s with err := false, errCode := .noError } = .next t →
    (t.err = true →
      t.errCode ≠ .noError ∧
      exec i s = .next { s with err := true, errCode := if s.err then s.errCode else t.errCode }) ∧
    (t.err = false → i ≠ .clrerr → exec i s = .next { t with err := s.err, errCode := s.errCode })

/-- 60_exceptions.md R210: while ERR is 1, only the completion of a `CLRERR` and reset change ERR or ERRCODE, and both return
them to 0. -/
def Obligations.ErrorIsStickyAndFirstWins : Prop :=
  ∀ s t : State, s.err = true → step s = .next t →
    if s.nextTurn = .reset ∨ (s.nextTurn = .engine ∧ s.pending = some 0x00000002)
    then t.err = false ∧ t.errCode = .noError
    else t.err = true ∧ t.errCode = s.errCode

/-! ### The bus -/

/-- 43_control.md R175: a write of `w` to CMD: an error entry while BUSY is 1, a drop while ERR is 1 unless `w` is the word of
`CLRERR`, and an acceptance otherwise.
(The consumed turn, the logged response and the draw counter are the model's own: log 4, 7, 13.) -/
def Obligations.CommandWriteIssues : Prop :=
  ∀ (s : State) (w : Word), s.nextTurn = .access (.write .bits32 s.params.base w) →
    step s = .next (
      if s.pending ≠ none then
        { s.restOfSchedule with
          err := true, errCode := if s.err then s.errCode else .busyWrite, responses := .written :: s.responses }
      else if s.err = true ∧ w ≠ 0x00000002 then { s.restOfSchedule with responses := .written :: s.responses }
      else { s.restOfSchedule with pending := some w, responses := .written :: s.responses })

/-- 70_reset_and_hazards.md R235, 60_exceptions.md R203: a write to any of the six argument words while BUSY is 1 is dropped and
raises BUSY_WRITE; the pending command is not affected.
(The consumed turn, the logged response and the draw counter are the model's own: log 4, 7, 13.) -/
def Obligations.BusyArgumentWriteIsDropped : Prop :=
  ∀ (s : State) (off : Nat) (v : Word), off ∈ [0x008, 0x00C, 0x010, 0x014, 0x018, 0x01C] → s.pending ≠ none →
    s.nextTurn = .access (.write .bits32 (s.params.base + off) v) →
    step s = .next { s.restOfSchedule with
      err := true, errCode := if s.err then s.errCode else .busyWrite, responses := .written :: s.responses }

/-- 10_state.md R39, R40, R41 and 20_memory.md R61: while BUSY is 0 a write to a half of FREQ, AMP or DUR stores that half, HI above
LO, and changes nothing else.
(The consumed turn, the logged response and the draw counter are the model's own: log 4, 7, 13.) -/
def Obligations.IdleArgumentWriteStoresHalf : Prop :=
  ∀ (s : State) (off : Nat) (v : Word), s.pending = none →
    s.nextTurn = .access (.write .bits32 (s.params.base + off) v) →
    let r : State := { s.restOfSchedule with responses := .written :: s.responses }
    (off = 0x008 → ∃ t, step s = .next t ∧ t = { r with freqLo := v } ∧ t.freq = s.freqHi ++ v) ∧
    (off = 0x00C → ∃ t, step s = .next t ∧ t = { r with freqHi := v } ∧ t.freq = v ++ s.freqLo) ∧
    (off = 0x010 → ∃ t, step s = .next t ∧ t = { r with ampLo := v } ∧ t.amp = s.ampHi ++ v) ∧
    (off = 0x014 → ∃ t, step s = .next t ∧ t = { r with ampHi := v } ∧ t.amp = v ++ s.ampLo) ∧
    (off = 0x018 → ∃ t, step s = .next t ∧ t = { r with durLo := v } ∧ t.dur = s.durHi ++ v) ∧
    (off = 0x01C → ∃ t, step s = .next t ∧ t = { r with durHi := v } ∧ t.dur = v ++ s.durLo)

/-- 10_state.md R45, 70_reset_and_hazards.md R237: SIG_IDX may be written with any word at any time, BUSY or not, without error,
and nothing else changes.
(The consumed turn, the logged response and the draw counter are the model's own: log 4, 7, 13.) -/
def Obligations.SigIdxIsAlwaysWritable : Prop :=
  ∀ (s : State) (v : Word), s.nextTurn = .access (.write .bits32 (s.params.base + 0x030) v) →
    step s = .next { s.restOfSchedule with sigIdx := v, responses := .written :: s.responses }

/-- 20_memory.md R65, R63: a write to a read-only register or to the PCM window changes nothing.
(The consumed turn, the logged response and the draw counter are the model's own: log 4, 7, 13.) -/
def Obligations.ReadOnlyWritesAreIgnored : Prop :=
  ∀ (s : State) (off : Nat) (v : Word), s.params.Legal →
    (off ∈ [0x004, 0x020, 0x024, 0x028, 0x02C, 0x034, 0x038, 0x03C] ∨
      (0x1000 ≤ off ∧ MappedOffset s.params.maxSamples off)) →
    s.nextTurn = .access (.write .bits32 (s.params.base + off) v) →
    step s = .next { s.restOfSchedule with responses := .written :: s.responses }

/-- 20_memory.md R65: while BUSY is 0, two reads of one mapped word with nothing between return the same value and change nothing
else.
(The consumed turn, the logged response and the draw counter are the model's own: log 4, 7, 13.) -/
def Obligations.IdleReadsRepeat : Prop :=
  ∀ (s : State) (off : Nat) (rest : List Turn), s.params.Legal → MappedOffset s.params.maxSamples off → s.pending = none →
    s.schedule = .access (.read .bits32 (s.params.base + off)) :: .access (.read .bits32 (s.params.base + off)) :: rest →
    ∃ v, Sys2Proof.core.run 2 s = .next { s with schedule := rest, responses := .data v :: .data v :: s.responses }

/-- 70_reset_and_hazards.md R236: while BUSY is 1 a result read returns any value (the next free draw). A read of CMD, STATUS,
CAPACITY, SIG_IDX or an argument register is exact at all times, BUSY or not: CMD reads 0 (20_memory.md R65), STATUS its word, and
the others what they hold (10_state.md R39, R40, R41, R45, R47).
(The consumed turn, the logged response and the draw counter are the model's own: log 4, 7, 13.) -/
def Obligations.BusyReadsAreFreeOrExact : Prop :=
  ∀ (s : State) (off : Nat), s.params.Legal →
    s.nextTurn = .access (.read .bits32 (s.params.base + off)) →
    (s.pending ≠ none →
      (off ∈ [0x020, 0x024, 0x028, 0x02C, 0x034, 0x038] ∨ (0x1000 ≤ off ∧ MappedOffset s.params.maxSamples off)) →
      step s = .next { s.restOfSchedule with
        responses := .data (Config.busyRead s.draws) :: s.responses, draws := s.draws + 1 }) ∧
    ∀ v : Word,
      (off, v) ∈ [(0x000, 0), (0x004, s.status), (0x008, s.freqLo), (0x00C, s.freqHi), (0x010, s.ampLo), (0x014, s.ampHi),
        (0x018, s.durLo), (0x01C, s.durHi), (0x030, s.sigIdx), (0x03C, BitVec.ofNat 32 s.params.maxSamples)] →
      step s = .next { s.restOfSchedule with responses := .data v :: s.responses }

/-- 20_memory.md R60, R64 and 60_exceptions.md R214: an access of another width, misaligned or to an unmapped 32-bit offset gets a
bus error, changes no state of the block and raises no error.
(The consumed turn, the logged response and the draw counter are the model's own: log 4, 7, 13.) -/
def Obligations.OtherAccessesGetBusError : Prop :=
  ∀ (s : State) (width : Width) (off : Nat) (v : Word), off < 2 ^ 32 →
    (width ≠ .bits32 ∨ ¬ MappedOffset s.params.maxSamples off) →
    (s.nextTurn = .access (.read width (s.params.base + off)) ∨
      s.nextTurn = .access (.write width (s.params.base + off) v)) →
    step s = .next { s.restOfSchedule with responses := .error .busError :: s.responses }

/-- 10_state.md R32, R33, R38: the fields of the STATUS word; bits 31:9 read 0, PHASE is never 3 and ERRCODE never above 6. -/
def Obligations.StatusWordHasListedFields : Prop :=
  ∀ s : State,
    (s.status.getLsbD 0 = true ↔ s.pending ≠ none) ∧
    s.status.extractLsb' 1 2 = (match s.phase with | .assembling => 0 | .normalized => 1 | .quantized => 2) ∧
    s.status.getLsbD 3 = s.err ∧
    s.status.extractLsb' 4 4 = (match s.errCode with
      | .noError => 0 | .illegalCmd => 1 | .busyWrite => 2 | .sequence => 3 | .badArg => 4 | .capacity => 5 | .numeric => 6) ∧
    s.status.getLsbD 8 = s.silent ∧
    s.status.extractLsb' 9 23 = 0

/-- 10_state.md R46: SIG_DATA_LO and SIG_DATA_HI read the halves of the signal cell at SIG_IDX, and 0 at or beyond LEN; a read
has no side effect.
(The consumed turn, the logged response and the draw counter are the model's own: log 4, 7, 13.) -/
def Obligations.SigDataReadsSelectedCell : Prop :=
  ∀ (s : State) (b : F64), s.pending = none →
    (∀ h : s.sigIdx.toNat < s.mem.sig.length, b = s.mem.sig[s.sigIdx.toNat]) →
    (s.mem.sig.length ≤ s.sigIdx.toNat → b = 0) →
    (s.nextTurn = .access (.read .bits32 (s.params.base + 0x034)) →
      step s = .next { s.restOfSchedule with responses := .data (b.extractLsb' 0 32) :: s.responses }) ∧
    (s.nextTurn = .access (.read .bits32 (s.params.base + 0x038)) →
      step s = .next { s.restOfSchedule with responses := .data (b.extractLsb' 32 32) :: s.responses })

/-- 20_memory.md R62: word `k` of the PCM window holds sample `2k` in bits 15:0 and sample `2k + 1` in bits 31:16, and 0 for a
sample at or beyond PCM_LEN.
(The consumed turn, the logged response and the draw counter are the model's own: log 4, 7, 13.) -/
def Obligations.PcmWindowHoldsSamplePairs : Prop :=
  ∀ (s : State) (k : Nat) (lo hi : Sample), s.params.Legal → s.pending = none → k < (s.params.maxSamples + 1) / 2 →
    (∀ h : 2 * k < s.mem.pcm.length, lo = s.mem.pcm[2 * k]) → (s.mem.pcm.length ≤ 2 * k → lo = 0) →
    (∀ h : 2 * k + 1 < s.mem.pcm.length, hi = s.mem.pcm[2 * k + 1]) → (s.mem.pcm.length ≤ 2 * k + 1 → hi = 0) →
    s.nextTurn = .access (.read .bits32 (s.params.base + 0x1000 + 4 * k)) →
    step s = .next { s.restOfSchedule with responses := .data (hi ++ lo) :: s.responses }

/-- 20_memory.md R61, R62: byte `j` of every register is bits `8j+7:8j` of its word, and bytes `0x1000 + 2i` and `0x1000 + 2i + 1` of
the window are the low and the high byte of sample `i`. -/
def Obligations.BytesAreLittleEndian : Prop :=
  ∀ (s : State) (j : Nat),
    (j < 4 → ∀ (off : Nat) (r : Reg), regAt off = some r →
      s.byteAt (off + j) = some ((s.readReg r).extractLsb' (8 * j) 8)) ∧
    (j < 2 → ∀ (i : Nat) (h : i < s.mem.pcm.length), i < s.params.maxSamples →
      s.byteAt (0x1000 + 2 * i + j) = some (s.mem.pcm[i].extractLsb' (8 * j) 8))

/-- 10_state.md R42, R43, R44, R47: what the result registers and CAPACITY read while BUSY is 0.
(The consumed turn, the logged response and the draw counter are the model's own: log 4, 7, 13.) -/
def Obligations.ResultRegistersReadExactlyWhenIdle : Prop :=
  ∀ (s : State) (off : Nat) (v : Word), s.pending = none →
    (off, v) ∈ [(0x020, BitVec.ofNat 32 s.mem.sig.length), (0x024, BitVec.ofNat 32 s.mem.pcm.length),
      (0x028, s.peak.extractLsb' 0 32), (0x02C, s.peak.extractLsb' 32 32), (0x03C, BitVec.ofNat 32 s.params.maxSamples)] →
    s.nextTurn = .access (.read .bits32 (s.params.base + off)) →
    step s = .next { s.restOfSchedule with responses := .data v :: s.responses }

/-! ### Whole-machine rules -/

/-- 10_state.md R39, R40, R41, R45, R47, R50: no command writes FREQ, AMP, DUR, SIG_IDX, CAPACITY or PENDING, nor the model's own
schedule, responses and draws. -/
def Obligations.NoCommandWritesArguments : Prop :=
  ∀ (i : Instr) (s : State), ∃ t, exec i s = .next t ∧
    t.freq = s.freq ∧ t.amp = s.amp ∧ t.dur = s.dur ∧ t.sigIdx = s.sigIdx ∧ t.params = s.params ∧ t.pending = s.pending ∧
    t.schedule = s.schedule ∧ t.responses = s.responses ∧ t.draws = s.draws

/-- 10_state.md R34: PHASE changes only by reset or CLEAR (to ASSEMBLING), NORM (to NORMALIZED) or QUANT (to QUANTIZED). -/
def Obligations.PhaseHasListedWriters : Prop :=
  ∀ s t : State, step s = .next t → t.phase ≠ s.phase →
    (s.nextTurn = .reset ∧ t.phase = .assembling) ∨
    (s.nextTurn = .engine ∧
      ((s.pending = some 0x00000001 ∧ t.phase = .assembling) ∨
       (s.pending = some 0x00000004 ∧ t.phase = .normalized) ∨
       (s.pending = some 0x00000005 ∧ t.phase = .quantized)))

/-- 10_state.md R42: LEN grows only by a SYNTH command's engine step in ASSEMBLING, and shrinks only to 0, by CLEAR or reset; the
parameters never change (R47). -/
def Obligations.LenHasListedWriters : Prop :=
  ∀ s t : State, step s = .next t → t.params = s.params ∧
    (t.len = s.len ∨
     (t.len = 0 ∧ (s.nextTurn = .reset ∨ (s.nextTurn = .engine ∧ s.pending = some 0x00000001))) ∨
     (s.len < t.len ∧ s.phase = .assembling ∧ s.nextTurn = .engine ∧
       ∃ w i k, s.pending = some w ∧ decodeWord w = .ok i ∧ synthKind i = some k))

/-! ### Binary64 and SIN -/

/-- 00_scope.md R11: a product of finite values is the exact product rounded to nearest, ties to even, with the sign of the signs. -/
def Obligations.ProductIsCorrectlyRounded : Prop :=
  ∀ a b : F64, F64.isFinite a = true → F64.isFinite b = true →
    CorrectlyRounded (F64.toRat a * F64.toRat b) (F64.mul a b) ∧ F64.sign (F64.mul a b) = (F64.sign a != F64.sign b)

/-- 00_scope.md R11: a sum and a difference of finite values are the exact ones rounded to nearest, ties to even. A nonzero exact result
gives its sign to the rounded one, an overflow to an infinity included; an exact zero sum is `-0.0` only for two negative zeros, and
an exact zero difference only for `-0.0 - +0.0`. -/
def Obligations.SumIsCorrectlyRounded : Prop :=
  ∀ a b : F64, F64.isFinite a = true → F64.isFinite b = true →
    CorrectlyRounded (F64.toRat a + F64.toRat b) (F64.add a b) ∧
    CorrectlyRounded (F64.toRat a - F64.toRat b) (F64.sub a b) ∧
    (F64.toRat a + F64.toRat b ≠ 0 → (F64.sign (F64.add a b) = true ↔ F64.toRat a + F64.toRat b < 0)) ∧
    (F64.toRat a - F64.toRat b ≠ 0 → (F64.sign (F64.sub a b) = true ↔ F64.toRat a - F64.toRat b < 0)) ∧
    (F64.toRat a + F64.toRat b = 0 → F64.sign (F64.add a b) = (F64.sign a && F64.sign b)) ∧
    (F64.toRat a - F64.toRat b = 0 → F64.sign (F64.sub a b) = (F64.sign a && !F64.sign b))

/-- 00_scope.md R11, 42_quantizer.md R142: a quotient of finite values, the divisor nonzero, is the exact quotient rounded to
nearest, ties to even, with the sign of the signs. -/
def Obligations.QuotientIsCorrectlyRounded : Prop :=
  ∀ a b : F64, F64.isFinite a = true → F64.isFinite b = true → F64.isZero b = false →
    CorrectlyRounded (F64.toRat a / F64.toRat b) (F64.div a b) ∧ F64.sign (F64.div a b) = (F64.sign a != F64.sign b)

/-- 00_scope.md R11, R12: `floor` is the largest integer at or below a finite value, exactly, and keeps a zero's sign; `round_away`
is the nearest integer, halves away from zero; `float(n)` is exact below 2^53. -/
def Obligations.IntegerConversionsAreExact : Prop :=
  (∀ x : F64, F64.isFinite x = true →
    F64.isFinite (F64.floor x) = true ∧ F64.toRat (F64.floor x) = (⌊F64.toRat x⌋ : ℚ) ∧
    (F64.isZero x = true → F64.floor x = x) ∧
    F64.roundAway x = if 0 ≤ F64.toRat x then ⌊F64.toRat x + 1 / 2⌋ else -⌊-F64.toRat x + 1 / 2⌋) ∧
  ∀ n : Nat, n < 2 ^ 53 → F64.isFinite (F64.ofNat n) = true ∧ F64.toRat (F64.ofNat n) = (n : ℚ)

/-- 00_scope.md R11: on finite values the comparisons are those of the values, and with a NaN all are false. -/
def Obligations.ComparisonsFollowValues : Prop :=
  ∀ a b : F64,
    (F64.isFinite a = true → F64.isFinite b = true →
      (F64.lt a b = true ↔ F64.toRat a < F64.toRat b) ∧ (F64.le a b = true ↔ F64.toRat a ≤ F64.toRat b) ∧
      (F64.eq a b = true ↔ F64.toRat a = F64.toRat b)) ∧
    (F64.isNaN a = true ∨ F64.isNaN b = true → F64.lt a b = false ∧ F64.le a b = false ∧ F64.eq a b = false)

/-- 00_scope.md R8, P1, P2, P4 and the first half of P3: `SIN` keeps the zeros, is finite and within [-1, 1] and not 0 on the finite
nonzero values, and is a NaN on the infinities and NaNs. -/
def Obligations.SinHasListedProperties : Prop :=
  sin F64.zero = F64.zero ∧ sin 0x8000000000000000 = 0x8000000000000000 ∧
  ∀ x : F64,
    (F64.isFinite x = true →
      F64.isFinite (sin x) = true ∧ F64.le F64.negOne (sin x) = true ∧ F64.le (sin x) F64.one = true ∧
      (F64.isZero x = false → F64.isZero (sin x) = false)) ∧
    (F64.isFinite x = false → F64.isNaN (sin x) = true)

/-- 00_scope.md R8, P3, on `|x| <= 6`: the sign of `SIN(x)` is that of the real sine. (That it is so for every finite `x` rests on
log 8, the model's table of pi.) -/
def Obligations.SinHasSignOfRealSine : Prop :=
  ∀ x : F64, F64.isFinite x = true → F64.isZero x = false → |F64.toRat x| ≤ 6 →
    (0 < Real.sin ((F64.toRat x : ℚ) : ℝ) ∧ F64.lt F64.zero (sin x) = true) ∨
    (Real.sin ((F64.toRat x : ℚ) : ℝ) < 0 ∧ F64.lt (sin x) F64.zero = true)

/-! ### Statements added to the families above -/

/-- The model's own choice (DESIGN CHOICE, unsafe, log 14), no rule of the spec: addresses do not wrap, so an access below BASE, or
2^32 or more above it, gets the bus error of an unmapped one.
(The consumed turn, the logged response and the draw counter are the model's own: log 4, 7, 13.) -/
def Obligations.AddressesOutsideOffsetRangeGetBusError : Prop :=
  ∀ (s : State) (width : Width) (addr : Nat) (v : Word),
    (addr < s.params.base ∨ s.params.base + 2 ^ 32 ≤ addr) →
    (s.nextTurn = .access (.read width addr) ∨ s.nextTurn = .access (.write width addr v)) →
    step s = .next { s.restOfSchedule with responses := .error .busError :: s.responses }

/-- 00_scope.md R11 (IEEE 754), the operands the rounding statements leave out: a NaN operand, an invalid combination of infinities and
zeros, an infinity, and a zero divisor. Which NaN results is not said (log 10). -/
def Obligations.ArithmeticOnSpecialValues : Prop :=
  ∀ a b : F64,
    (F64.isNaN a = true ∨ F64.isNaN b = true →
      F64.isNaN (F64.add a b) = true ∧ F64.isNaN (F64.sub a b) = true ∧ F64.isNaN (F64.mul a b) = true ∧
      F64.isNaN (F64.div a b) = true) ∧
    (F64.isInf a = true → F64.isFinite b = true → F64.add a b = a ∧ F64.sub a b = a) ∧
    (F64.isFinite a = true → F64.isInf b = true →
      F64.add a b = b ∧ F64.isInf (F64.sub a b) = true ∧ F64.sign (F64.sub a b) = !F64.sign b) ∧
    (F64.isInf a = true → F64.isInf b = true →
      (if F64.sign a = F64.sign b then F64.add a b = a ∧ F64.isNaN (F64.sub a b) = true
        else F64.isNaN (F64.add a b) = true ∧ F64.sub a b = a) ∧
      F64.isNaN (F64.div a b) = true) ∧
    (F64.isInf a = true ∧ F64.isZero b = true ∨ F64.isZero a = true ∧ F64.isInf b = true →
      F64.isNaN (F64.mul a b) = true) ∧
    (F64.isInf a = true ∧ F64.isNaN b = false ∧ F64.isZero b = false ∨
        F64.isNaN a = false ∧ F64.isZero a = false ∧ F64.isInf b = true →
      F64.isInf (F64.mul a b) = true ∧ F64.sign (F64.mul a b) = (F64.sign a != F64.sign b)) ∧
    (F64.isZero a = true → F64.isZero b = true → F64.isNaN (F64.div a b) = true) ∧
    (F64.isInf a = true ∧ F64.isFinite b = true ∨ F64.isFinite a = true ∧ F64.isZero a = false ∧ F64.isZero b = true →
      F64.isInf (F64.div a b) = true ∧ F64.sign (F64.div a b) = (F64.sign a != F64.sign b)) ∧
    (F64.isFinite a = true → F64.isInf b = true →
      F64.isZero (F64.div a b) = true ∧ F64.sign (F64.div a b) = (F64.sign a != F64.sign b))

/-- 00_scope.md R8, P3, for every finite nonzero `x` at which the model's table of pi counts the whole multiples of pi below `|x|`
right: the sign of `SIN(x)` is that of the real sine. That it counts them right for every binary64 is the model's assumption
(PRESUMED, log 8), here a hypothesis. -/
def Obligations.SinSignFollowsMultiplesOfPi : Prop :=
  ∀ x : F64, F64.isFinite x = true → F64.isZero x = false →
    ⌊|((F64.toRat x : ℚ) : ℝ)| / Real.pi⌋ = ((F64.units x * 2 ^ 176 / piScaled : Nat) : Int) →
    (0 < Real.sin ((F64.toRat x : ℚ) : ℝ) ∧ F64.lt F64.zero (sin x) = true) ∨
    (Real.sin ((F64.toRat x : ℚ) : ℝ) < 0 ∧ F64.lt (sin x) F64.zero = true)
end

