-- ==== Sys2Proof/Laws/Binary64.lean ====
section
/-! SUPPORT. What the binary64 operations do: patterns, the rounding function, and the largest of a list. -/

namespace Sys2Proof.F64

theorem sign_ofMag (neg : Bool) {m : Nat} (h : m < 2 ^ 63) : sign (ofMag neg m) = neg := by
  cases neg <;> simp [sign, ofMag] <;> omega

theorem mag_ofMag (neg : Bool) {m : Nat} (h : m < 2 ^ 63) : mag (ofMag neg m) = m := by
  cases neg <;> simp [mag, ofMag] <;> omega

theorem mag_lt (x : F64) : mag x < 2 ^ 63 := Nat.mod_lt _ (by decide)

/-- A pattern is its sign bit and its magnitude. -/
theorem ofMag_sign_mag (x : F64) : ofMag (sign x) (mag x) = x := by
  apply BitVec.eq_of_toNat_eq
  have h := x.isLt
  simp only [ofMag, sign, mag, BitVec.toNat_ofNat, decide_eq_true_eq]
  split <;> omega

theorem ext_sign_mag {x y : F64} (hs : sign x = sign y) (hm : mag x = mag y) : x = y := by
  rw [← ofMag_sign_mag x, ← ofMag_sign_mag y, hs, hm]

@[simp] theorem sign_abs (x : F64) : sign (abs x) = false := sign_ofMag _ (mag_lt x)

@[simp] theorem mag_abs (x : F64) : mag (abs x) = mag x := mag_ofMag _ (mag_lt x)

@[simp] theorem isFinite_abs (x : F64) : isFinite (abs x) = isFinite x := by simp [isFinite]

@[simp] theorem sign_neg (x : F64) : sign (neg x) = !sign x := sign_ofMag _ (mag_lt x)

@[simp] theorem mag_neg (x : F64) : mag (neg x) = mag x := mag_ofMag _ (mag_lt x)

theorem toInt_neg (x : F64) : toInt (neg x) = -toInt x := by
  unfold toInt units
  rw [sign_neg, mag_neg]
  cases sign x <;> simp

theorem toRat_neg (x : F64) : toRat (neg x) = -toRat x := by
  unfold toRat
  rw [toInt_neg, Int.cast_neg, neg_div]

theorem unit_cast_pos : (0 : ℚ) < (unit : ℚ) := by
  unfold unit
  positivity

/-- The exact sum of two values, in units; its sign and its zeros are those of the whole number of units. -/
theorem toRat_add (a b : F64) : toRat a + toRat b = ((toInt a + toInt b : Int) : ℚ) / (unit : ℚ) := by
  unfold toRat
  rw [Int.cast_add, add_div]

theorem isFinite_iff (x : F64) : isFinite x = true ↔ mag x < infMag := by simp [isFinite]

theorem not_isNaN_of_isFinite {x : F64} (h : isFinite x = true) : isNaN x = false := by
  simp [isFinite_iff] at h; simp [isNaN]; omega

theorem not_isInf_of_isFinite {x : F64} (h : isFinite x = true) : isInf x = false := by
  simp [isFinite_iff] at h; simp [isInf]; omega

theorem infMag_lt : infMag < 2 ^ 63 := by decide

theorem roundMag_le (num den : Nat) : roundMag num den ≤ infMag := Nat.min_le_right _ _

theorem sign_round (neg : Bool) (num den : Nat) : sign (round neg num den) = neg :=
  sign_ofMag _ (lt_of_le_of_lt (roundMag_le _ _) infMag_lt)

theorem mag_round (neg : Bool) (num den : Nat) : mag (round neg num den) = roundMag num den :=
  mag_ofMag _ (lt_of_le_of_lt (roundMag_le _ _) infMag_lt)

/-- The binary search finds the highest bit. -/
theorem highBit_eq_log2 (k n : Nat) (h : n < 2 ^ 2 ^ k) : highBit k n = Nat.log2 n := by
  induction k generalizing n with
  | zero =>
    have : n = 0 ∨ n = 1 := by simp at h; omega
    rcases this with rfl | rfl <;> decide
  | succ k ih =>
    have hp : 2 ^ 2 ^ (k + 1) = 2 ^ 2 ^ k * 2 ^ 2 ^ k := by rw [← pow_add]; congr 1; ring
    simp only [highBit]
    split
    · rename_i hle
      have hpos : 0 < 2 ^ 2 ^ k := by positivity
      have hq : n / 2 ^ 2 ^ k < 2 ^ 2 ^ k := by rw [Nat.div_lt_iff_lt_mul hpos]; rwa [← hp]
      rw [ih _ hq, Nat.log2_eq_log_two, Nat.log2_eq_log_two, Nat.log_div_base_pow]
      have := Nat.le_log_of_pow_le (b := 2) (by norm_num) hle
      omega
    · exact ih _ (by omega)

theorem divNearestEven_le_of_le {num den k : Nat} (hden : 0 < den) (h : num ≤ k * den) : divNearestEven num den ≤ k := by
  have hq : num / den ≤ k := Nat.div_le_of_le_mul (by rwa [Nat.mul_comm])
  have hm := Nat.div_add_mod num den
  have hlt := Nat.mod_lt num hden
  by_cases he : num / den = k
  · have : num % den = 0 := by rw [he] at hm; have := Nat.mul_comm den k; omega
    simp [divNearestEven, this, hden, he]
  · unfold divNearestEven
    split_ifs <;> omega

/-- A quotient below 2^(53 + e), e its excess bits. -/
theorem lt_two_pow_excessBits {n : Nat} (h : n < 2 ^ 2 ^ 13) : n < 2 ^ (53 + excessBits n) := by
  rcases Nat.eq_zero_or_pos n with rfl | hn
  · positivity
  · have h1 : n < 2 ^ (Nat.log2 n + 1) := Nat.lt_log2_self
    refine lt_of_lt_of_le h1 (Nat.pow_le_pow_right (by norm_num) ?_)
    rw [excessBits, highBit_eq_log2 _ _ h]
    omega

/-- The rounded quotient has at most 53 bits, or is 2^53. -/
theorem divNearestEven_excess_le {num den : Nat} (hden : 0 < den) (h : num / den < 2 ^ 2 ^ 13) :
    divNearestEven num (den * 2 ^ excessBits (num / den)) ≤ 2 ^ 53 := by
  apply divNearestEven_le_of_le (by positivity)
  have h1 := lt_two_pow_excessBits h
  rw [Nat.div_lt_iff_lt_mul hden, pow_add] at h1
  calc num ≤ 2 ^ 53 * 2 ^ excessBits (num / den) * den := h1.le
    _ = 2 ^ 53 * (den * 2 ^ excessBits (num / den)) := by ring

theorem unit_lt : unit < 2 ^ 2 ^ 13 := by
  unfold unit
  generalize h : 1074 = e
  exact Nat.pow_lt_pow_right Nat.one_lt_two (by omega)

/-- A quotient of at most 1 rounds to at most 1. -/
theorem roundMag_le_oneMag {num den : Nat} (hden : 0 < den) (h : num ≤ den * unit) : roundMag num den ≤ oneMag := by
  have hq : num / den ≤ unit := Nat.div_le_of_le_mul h
  have hbig : num / den < 2 ^ 2 ^ 13 := lt_of_le_of_lt hq unit_lt
  have he : excessBits (num / den) ≤ 1022 := by
    rw [excessBits, highBit_eq_log2 _ _ hbig, Nat.log2_eq_log_two]
    have := Nat.log_mono_right (b := 2) hq
    rw [unit, Nat.log_pow (by norm_num)] at this
    omega
  have hone : oneMag = 1023 * 2 ^ 52 := by decide
  refine le_trans (Nat.min_le_left _ _) ?_
  rw [hone]
  rcases Nat.lt_or_ge (excessBits (num / den)) 1022 with hlt | hge
  · have := divNearestEven_excess_le hden hbig
    omega
  · have he' : excessBits (num / den) = 1022 := le_antisymm he hge
    have : divNearestEven num (den * 2 ^ excessBits (num / den)) ≤ 2 ^ 52 := by
      apply divNearestEven_le_of_le (by positivity)
      rw [he']
      calc num ≤ den * unit := h
        _ = 2 ^ 52 * (den * 2 ^ 1022) := by rw [unit, show (1074 : Nat) = 52 + 1022 from rfl, pow_add]; ring
    omega

/-- A larger pattern is a larger magnitude. -/
theorem unitsOfMag_mono {m m' : Nat} (h : m ≤ m') : unitsOfMag m ≤ unitsOfMag m' := by
  have hd : m / 2 ^ 52 ≤ m' / 2 ^ 52 := Nat.div_le_div_right h
  have hr := Nat.mod_lt m (y := 2 ^ 52) (by positivity)
  unfold unitsOfMag
  by_cases h0 : m / 2 ^ 52 = 0
  · by_cases h0' : m' / 2 ^ 52 = 0
    · simp only [h0, h0', if_true]; exact h
    · simp only [h0, h0', if_true, if_false]
      calc m ≤ 2 ^ 52 := by omega
        _ ≤ (m' % 2 ^ 52 + 2 ^ 52) * 1 := by omega
        _ ≤ _ := Nat.mul_le_mul_left _ Nat.one_le_two_pow
  · have h0' : m' / 2 ^ 52 ≠ 0 := by omega
    simp only [h0, h0', if_false]
    rcases Nat.eq_or_lt_of_le hd with heq | hlt
    · rw [heq]; exact Nat.mul_le_mul_right _ (by omega)
    · calc (m % 2 ^ 52 + 2 ^ 52) * 2 ^ (m / 2 ^ 52 - 1)
          ≤ 2 ^ 53 * 2 ^ (m / 2 ^ 52 - 1) := Nat.mul_le_mul_right _ (by omega)
        _ = 2 ^ 52 * 2 ^ (m / 2 ^ 52) := by rw [← pow_add, ← pow_add]; congr 1; omega
        _ ≤ (m' % 2 ^ 52 + 2 ^ 52) * 2 ^ (m' / 2 ^ 52 - 1) :=
          Nat.mul_le_mul (by omega) (Nat.pow_le_pow_right (by norm_num) (by omega))

theorem unitsOfMag_pos {m : Nat} (h : 0 < m) : 0 < unitsOfMag m := by
  unfold unitsOfMag
  split
  · exact h
  · positivity

theorem units_pos {x : F64} (h : isZero x = false) : 0 < units x :=
  unitsOfMag_pos (by simp [isZero] at h; omega)

/-- The quotient of finite values, the divisor nonzero, is the rounded quotient of their units. -/
theorem div_eq_round {x p : F64} (hx : isFinite x = true) (hp : isFinite p = true) (h0 : isZero p = false) :
    div x p = round (sign x != sign p) (units x * unit) (units p) := by
  simp [div, not_isNaN_of_isFinite hx, not_isNaN_of_isFinite hp, not_isInf_of_isFinite hx, not_isInf_of_isFinite hp, h0]

/-- Of two values with clear sign bits, neither a NaN, the comparison is that of their patterns. -/
theorem lt_of_nonneg {a b : F64} (ha : sign a = false) (hb : sign b = false) (na : isNaN a = false) (nb : isNaN b = false) :
    lt a b = decide (mag a < mag b) := by
  simp [lt, key, ha, hb, na, nb]

/-- What `maxList` answers on finite values with clear sign bits: the largest of them and of `+0.0`. -/
theorem maxList_spec (xs : List F64) (h : ∀ x ∈ xs, sign x = false ∧ isFinite x = true) :
    sign (maxList xs) = false ∧ isFinite (maxList xs) = true ∧ (∀ x ∈ xs, mag x ≤ mag (maxList xs)) ∧
      (maxList xs = zero ∨ maxList xs ∈ xs) := by
  suffices hgen : ∀ m : F64, sign m = false → isFinite m = true →
      sign (xs.foldl (fun m x => if lt m x then x else m) m) = false ∧
      isFinite (xs.foldl (fun m x => if lt m x then x else m) m) = true ∧
      mag m ≤ mag (xs.foldl (fun m x => if lt m x then x else m) m) ∧
      (∀ x ∈ xs, mag x ≤ mag (xs.foldl (fun m x => if lt m x then x else m) m)) ∧
      (xs.foldl (fun m x => if lt m x then x else m) m = m ∨ xs.foldl (fun m x => if lt m x then x else m) m ∈ xs) by
    obtain ⟨h1, h2, -, h3, h4⟩ := hgen zero (by decide) (by decide)
    exact ⟨h1, h2, h3, h4⟩
  induction xs with
  | nil => intro m hs hf; simp [hs, hf]
  | cons y ys ih =>
    intro m hs hf
    obtain ⟨hys, hyf⟩ := h y (by simp)
    have hlt := lt_of_nonneg hs hys (not_isNaN_of_isFinite hf) (not_isNaN_of_isFinite hyf)
    simp only [List.foldl_cons]
    by_cases hm : mag m < mag y
    · simp only [hlt, hm, decide_true, if_true]
      obtain ⟨a1, a2, a3, a4, a5⟩ := ih (fun x hx => h x (by simp [hx])) y hys hyf
      refine ⟨a1, a2, by omega, ?_, ?_⟩
      · intro x hx
        rcases List.mem_cons.1 hx with rfl | hx
        · exact a3
        · exact a4 x hx
      · rcases a5 with a5 | a5
        · exact .inr (by rw [a5]; simp)
        · exact .inr (by simp [a5])
    · simp only [hlt, hm, decide_false, Bool.false_eq_true, if_false]
      obtain ⟨a1, a2, a3, a4, a5⟩ := ih (fun x hx => h x (by simp [hx])) m hs hf
      refine ⟨a1, a2, a3, ?_, ?_⟩
      · intro x hx
        rcases List.mem_cons.1 hx with rfl | hx
        · omega
        · exact a4 x hx
      · rcases a5 with a5 | a5
        · exact .inl a5
        · exact .inr (by simp [a5])

end Sys2Proof.F64

namespace Sys2Proof.Machine

open Sys2Proof

/-- What the peak of a finite signal is: a finite value with a clear sign bit, at least every magnitude, and `+0.0` or one of
the magnitudes. -/
theorem peakOf_spec (sig : List F64) (h : ∀ x ∈ sig, F64.isFinite x = true) :
    F64.sign (peakOf sig) = false ∧ F64.isFinite (peakOf sig) = true ∧ (∀ x ∈ sig, F64.mag x ≤ F64.mag (peakOf sig)) ∧
      (peakOf sig = F64.zero ∨ ∃ x ∈ sig, F64.abs x = peakOf sig) := by
  have := F64.maxList_spec (sig.map F64.abs) (by simpa using h)
  simpa [peakOf] using this

/-- A sample divided by a peak at least its magnitude has a magnitude of at most 1. -/
theorem mag_div_peak_le {x p : F64} (hp : F64.isFinite p = true) (h0 : F64.isZero p = false)
    (hle : F64.mag x ≤ F64.mag p) : F64.mag (F64.div x p) ≤ F64.oneMag := by
  have hx : F64.isFinite x = true := by simp [F64.isFinite_iff] at hp ⊢; omega
  rw [F64.div_eq_round hx hp h0, F64.mag_round]
  exact F64.roundMag_le_oneMag (F64.units_pos h0) (Nat.mul_le_mul_right _ (F64.unitsOfMag_mono hle))

end Sys2Proof.Machine
end

