-- ==== Sys2Proof/Laws/State.lean ====
section
/-! SUPPORT. One lemma per field per update of the state, true by definition. -/

namespace Sys2Proof.Machine

open Sys2Proof

@[simp] theorem errorEntry_params (c : ErrCode) (s : State) : (s.errorEntry c).params = s.params := rfl
@[simp] theorem errorEntry_freqLo (c : ErrCode) (s : State) : (s.errorEntry c).freqLo = s.freqLo := rfl
@[simp] theorem errorEntry_freqHi (c : ErrCode) (s : State) : (s.errorEntry c).freqHi = s.freqHi := rfl
@[simp] theorem errorEntry_ampLo (c : ErrCode) (s : State) : (s.errorEntry c).ampLo = s.ampLo := rfl
@[simp] theorem errorEntry_ampHi (c : ErrCode) (s : State) : (s.errorEntry c).ampHi = s.ampHi := rfl
@[simp] theorem errorEntry_durLo (c : ErrCode) (s : State) : (s.errorEntry c).durLo = s.durLo := rfl
@[simp] theorem errorEntry_durHi (c : ErrCode) (s : State) : (s.errorEntry c).durHi = s.durHi := rfl
@[simp] theorem errorEntry_phase (c : ErrCode) (s : State) : (s.errorEntry c).phase = s.phase := rfl
@[simp] theorem errorEntry_err (c : ErrCode) (s : State) : (s.errorEntry c).err = true := rfl
@[simp] theorem errorEntry_errCode (c : ErrCode) (s : State) : (s.errorEntry c).errCode = if s.err then s.errCode else c := rfl
@[simp] theorem errorEntry_silent (c : ErrCode) (s : State) : (s.errorEntry c).silent = s.silent := rfl
@[simp] theorem errorEntry_peak (c : ErrCode) (s : State) : (s.errorEntry c).peak = s.peak := rfl
@[simp] theorem errorEntry_sigIdx (c : ErrCode) (s : State) : (s.errorEntry c).sigIdx = s.sigIdx := rfl
@[simp] theorem errorEntry_mem (c : ErrCode) (s : State) : (s.errorEntry c).mem = s.mem := rfl
@[simp] theorem errorEntry_pending (c : ErrCode) (s : State) : (s.errorEntry c).pending = s.pending := rfl
@[simp] theorem errorEntry_schedule (c : ErrCode) (s : State) : (s.errorEntry c).schedule = s.schedule := rfl
@[simp] theorem errorEntry_responses (c : ErrCode) (s : State) : (s.errorEntry c).responses = s.responses := rfl
@[simp] theorem errorEntry_draws (c : ErrCode) (s : State) : (s.errorEntry c).draws = s.draws := rfl

@[simp] theorem clearError_params (s : State) : (s.clearError).params = s.params := rfl
@[simp] theorem clearError_freqLo (s : State) : (s.clearError).freqLo = s.freqLo := rfl
@[simp] theorem clearError_freqHi (s : State) : (s.clearError).freqHi = s.freqHi := rfl
@[simp] theorem clearError_ampLo (s : State) : (s.clearError).ampLo = s.ampLo := rfl
@[simp] theorem clearError_ampHi (s : State) : (s.clearError).ampHi = s.ampHi := rfl
@[simp] theorem clearError_durLo (s : State) : (s.clearError).durLo = s.durLo := rfl
@[simp] theorem clearError_durHi (s : State) : (s.clearError).durHi = s.durHi := rfl
@[simp] theorem clearError_phase (s : State) : (s.clearError).phase = s.phase := rfl
@[simp] theorem clearError_err (s : State) : (s.clearError).err = false := rfl
@[simp] theorem clearError_errCode (s : State) : (s.clearError).errCode = .noError := rfl
@[simp] theorem clearError_silent (s : State) : (s.clearError).silent = s.silent := rfl
@[simp] theorem clearError_peak (s : State) : (s.clearError).peak = s.peak := rfl
@[simp] theorem clearError_sigIdx (s : State) : (s.clearError).sigIdx = s.sigIdx := rfl
@[simp] theorem clearError_mem (s : State) : (s.clearError).mem = s.mem := rfl
@[simp] theorem clearError_pending (s : State) : (s.clearError).pending = s.pending := rfl
@[simp] theorem clearError_schedule (s : State) : (s.clearError).schedule = s.schedule := rfl
@[simp] theorem clearError_responses (s : State) : (s.clearError).responses = s.responses := rfl
@[simp] theorem clearError_draws (s : State) : (s.clearError).draws = s.draws := rfl

@[simp] theorem accept_params (w : Word) (s : State) : (s.accept w).params = s.params := rfl
@[simp] theorem accept_freqLo (w : Word) (s : State) : (s.accept w).freqLo = s.freqLo := rfl
@[simp] theorem accept_freqHi (w : Word) (s : State) : (s.accept w).freqHi = s.freqHi := rfl
@[simp] theorem accept_ampLo (w : Word) (s : State) : (s.accept w).ampLo = s.ampLo := rfl
@[simp] theorem accept_ampHi (w : Word) (s : State) : (s.accept w).ampHi = s.ampHi := rfl
@[simp] theorem accept_durLo (w : Word) (s : State) : (s.accept w).durLo = s.durLo := rfl
@[simp] theorem accept_durHi (w : Word) (s : State) : (s.accept w).durHi = s.durHi := rfl
@[simp] theorem accept_phase (w : Word) (s : State) : (s.accept w).phase = s.phase := rfl
@[simp] theorem accept_err (w : Word) (s : State) : (s.accept w).err = s.err := rfl
@[simp] theorem accept_errCode (w : Word) (s : State) : (s.accept w).errCode = s.errCode := rfl
@[simp] theorem accept_silent (w : Word) (s : State) : (s.accept w).silent = s.silent := rfl
@[simp] theorem accept_peak (w : Word) (s : State) : (s.accept w).peak = s.peak := rfl
@[simp] theorem accept_sigIdx (w : Word) (s : State) : (s.accept w).sigIdx = s.sigIdx := rfl
@[simp] theorem accept_mem (w : Word) (s : State) : (s.accept w).mem = s.mem := rfl
@[simp] theorem accept_pending (w : Word) (s : State) : (s.accept w).pending = some w := rfl
@[simp] theorem accept_schedule (w : Word) (s : State) : (s.accept w).schedule = s.schedule := rfl
@[simp] theorem accept_responses (w : Word) (s : State) : (s.accept w).responses = s.responses := rfl
@[simp] theorem accept_draws (w : Word) (s : State) : (s.accept w).draws = s.draws := rfl

@[simp] theorem complete_params (s : State) : (s.complete).params = s.params := rfl
@[simp] theorem complete_freqLo (s : State) : (s.complete).freqLo = s.freqLo := rfl
@[simp] theorem complete_freqHi (s : State) : (s.complete).freqHi = s.freqHi := rfl
@[simp] theorem complete_ampLo (s : State) : (s.complete).ampLo = s.ampLo := rfl
@[simp] theorem complete_ampHi (s : State) : (s.complete).ampHi = s.ampHi := rfl
@[simp] theorem complete_durLo (s : State) : (s.complete).durLo = s.durLo := rfl
@[simp] theorem complete_durHi (s : State) : (s.complete).durHi = s.durHi := rfl
@[simp] theorem complete_phase (s : State) : (s.complete).phase = s.phase := rfl
@[simp] theorem complete_err (s : State) : (s.complete).err = s.err := rfl
@[simp] theorem complete_errCode (s : State) : (s.complete).errCode = s.errCode := rfl
@[simp] theorem complete_silent (s : State) : (s.complete).silent = s.silent := rfl
@[simp] theorem complete_peak (s : State) : (s.complete).peak = s.peak := rfl
@[simp] theorem complete_sigIdx (s : State) : (s.complete).sigIdx = s.sigIdx := rfl
@[simp] theorem complete_mem (s : State) : (s.complete).mem = s.mem := rfl
@[simp] theorem complete_pending (s : State) : (s.complete).pending = none := rfl
@[simp] theorem complete_schedule (s : State) : (s.complete).schedule = s.schedule := rfl
@[simp] theorem complete_responses (s : State) : (s.complete).responses = s.responses := rfl
@[simp] theorem complete_draws (s : State) : (s.complete).draws = s.draws := rfl

@[simp] theorem appendSegment_params (seg : List F64) (s : State) : (s.appendSegment seg).params = s.params := rfl
@[simp] theorem appendSegment_freqLo (seg : List F64) (s : State) : (s.appendSegment seg).freqLo = s.freqLo := rfl
@[simp] theorem appendSegment_freqHi (seg : List F64) (s : State) : (s.appendSegment seg).freqHi = s.freqHi := rfl
@[simp] theorem appendSegment_ampLo (seg : List F64) (s : State) : (s.appendSegment seg).ampLo = s.ampLo := rfl
@[simp] theorem appendSegment_ampHi (seg : List F64) (s : State) : (s.appendSegment seg).ampHi = s.ampHi := rfl
@[simp] theorem appendSegment_durLo (seg : List F64) (s : State) : (s.appendSegment seg).durLo = s.durLo := rfl
@[simp] theorem appendSegment_durHi (seg : List F64) (s : State) : (s.appendSegment seg).durHi = s.durHi := rfl
@[simp] theorem appendSegment_phase (seg : List F64) (s : State) : (s.appendSegment seg).phase = s.phase := rfl
@[simp] theorem appendSegment_err (seg : List F64) (s : State) : (s.appendSegment seg).err = s.err := rfl
@[simp] theorem appendSegment_errCode (seg : List F64) (s : State) : (s.appendSegment seg).errCode = s.errCode := rfl
@[simp] theorem appendSegment_silent (seg : List F64) (s : State) : (s.appendSegment seg).silent = s.silent := rfl
@[simp] theorem appendSegment_peak (seg : List F64) (s : State) : (s.appendSegment seg).peak = s.peak := rfl
@[simp] theorem appendSegment_sigIdx (seg : List F64) (s : State) : (s.appendSegment seg).sigIdx = s.sigIdx := rfl
@[simp] theorem appendSegment_mem (seg : List F64) (s : State) : (s.appendSegment seg).mem = { s.mem with sig := s.mem.sig ++ seg } := rfl
@[simp] theorem appendSegment_pending (seg : List F64) (s : State) : (s.appendSegment seg).pending = s.pending := rfl
@[simp] theorem appendSegment_schedule (seg : List F64) (s : State) : (s.appendSegment seg).schedule = s.schedule := rfl
@[simp] theorem appendSegment_responses (seg : List F64) (s : State) : (s.appendSegment seg).responses = s.responses := rfl
@[simp] theorem appendSegment_draws (seg : List F64) (s : State) : (s.appendSegment seg).draws = s.draws := rfl

@[simp] theorem rewriteSig_params (f : F64 → F64) (s : State) : (s.rewriteSig f).params = s.params := rfl
@[simp] theorem rewriteSig_freqLo (f : F64 → F64) (s : State) : (s.rewriteSig f).freqLo = s.freqLo := rfl
@[simp] theorem rewriteSig_freqHi (f : F64 → F64) (s : State) : (s.rewriteSig f).freqHi = s.freqHi := rfl
@[simp] theorem rewriteSig_ampLo (f : F64 → F64) (s : State) : (s.rewriteSig f).ampLo = s.ampLo := rfl
@[simp] theorem rewriteSig_ampHi (f : F64 → F64) (s : State) : (s.rewriteSig f).ampHi = s.ampHi := rfl
@[simp] theorem rewriteSig_durLo (f : F64 → F64) (s : State) : (s.rewriteSig f).durLo = s.durLo := rfl
@[simp] theorem rewriteSig_durHi (f : F64 → F64) (s : State) : (s.rewriteSig f).durHi = s.durHi := rfl
@[simp] theorem rewriteSig_phase (f : F64 → F64) (s : State) : (s.rewriteSig f).phase = s.phase := rfl
@[simp] theorem rewriteSig_err (f : F64 → F64) (s : State) : (s.rewriteSig f).err = s.err := rfl
@[simp] theorem rewriteSig_errCode (f : F64 → F64) (s : State) : (s.rewriteSig f).errCode = s.errCode := rfl
@[simp] theorem rewriteSig_silent (f : F64 → F64) (s : State) : (s.rewriteSig f).silent = s.silent := rfl
@[simp] theorem rewriteSig_peak (f : F64 → F64) (s : State) : (s.rewriteSig f).peak = s.peak := rfl
@[simp] theorem rewriteSig_sigIdx (f : F64 → F64) (s : State) : (s.rewriteSig f).sigIdx = s.sigIdx := rfl
@[simp] theorem rewriteSig_mem (f : F64 → F64) (s : State) : (s.rewriteSig f).mem = { s.mem with sig := s.mem.sig.map f } := rfl
@[simp] theorem rewriteSig_pending (f : F64 → F64) (s : State) : (s.rewriteSig f).pending = s.pending := rfl
@[simp] theorem rewriteSig_schedule (f : F64 → F64) (s : State) : (s.rewriteSig f).schedule = s.schedule := rfl
@[simp] theorem rewriteSig_responses (f : F64 → F64) (s : State) : (s.rewriteSig f).responses = s.responses := rfl
@[simp] theorem rewriteSig_draws (f : F64 → F64) (s : State) : (s.rewriteSig f).draws = s.draws := rfl

@[simp] theorem fillPcm_params (f : F64 → Sample) (s : State) : (s.fillPcm f).params = s.params := rfl
@[simp] theorem fillPcm_freqLo (f : F64 → Sample) (s : State) : (s.fillPcm f).freqLo = s.freqLo := rfl
@[simp] theorem fillPcm_freqHi (f : F64 → Sample) (s : State) : (s.fillPcm f).freqHi = s.freqHi := rfl
@[simp] theorem fillPcm_ampLo (f : F64 → Sample) (s : State) : (s.fillPcm f).ampLo = s.ampLo := rfl
@[simp] theorem fillPcm_ampHi (f : F64 → Sample) (s : State) : (s.fillPcm f).ampHi = s.ampHi := rfl
@[simp] theorem fillPcm_durLo (f : F64 → Sample) (s : State) : (s.fillPcm f).durLo = s.durLo := rfl
@[simp] theorem fillPcm_durHi (f : F64 → Sample) (s : State) : (s.fillPcm f).durHi = s.durHi := rfl
@[simp] theorem fillPcm_phase (f : F64 → Sample) (s : State) : (s.fillPcm f).phase = s.phase := rfl
@[simp] theorem fillPcm_err (f : F64 → Sample) (s : State) : (s.fillPcm f).err = s.err := rfl
@[simp] theorem fillPcm_errCode (f : F64 → Sample) (s : State) : (s.fillPcm f).errCode = s.errCode := rfl
@[simp] theorem fillPcm_silent (f : F64 → Sample) (s : State) : (s.fillPcm f).silent = s.silent := rfl
@[simp] theorem fillPcm_peak (f : F64 → Sample) (s : State) : (s.fillPcm f).peak = s.peak := rfl
@[simp] theorem fillPcm_sigIdx (f : F64 → Sample) (s : State) : (s.fillPcm f).sigIdx = s.sigIdx := rfl
@[simp] theorem fillPcm_mem (f : F64 → Sample) (s : State) : (s.fillPcm f).mem = { s.mem with pcm := s.mem.sig.map f } := rfl
@[simp] theorem fillPcm_pending (f : F64 → Sample) (s : State) : (s.fillPcm f).pending = s.pending := rfl
@[simp] theorem fillPcm_schedule (f : F64 → Sample) (s : State) : (s.fillPcm f).schedule = s.schedule := rfl
@[simp] theorem fillPcm_responses (f : F64 → Sample) (s : State) : (s.fillPcm f).responses = s.responses := rfl
@[simp] theorem fillPcm_draws (f : F64 → Sample) (s : State) : (s.fillPcm f).draws = s.draws := rfl

@[simp] theorem emptyBuffers_params (s : State) : (s.emptyBuffers).params = s.params := rfl
@[simp] theorem emptyBuffers_freqLo (s : State) : (s.emptyBuffers).freqLo = s.freqLo := rfl
@[simp] theorem emptyBuffers_freqHi (s : State) : (s.emptyBuffers).freqHi = s.freqHi := rfl
@[simp] theorem emptyBuffers_ampLo (s : State) : (s.emptyBuffers).ampLo = s.ampLo := rfl
@[simp] theorem emptyBuffers_ampHi (s : State) : (s.emptyBuffers).ampHi = s.ampHi := rfl
@[simp] theorem emptyBuffers_durLo (s : State) : (s.emptyBuffers).durLo = s.durLo := rfl
@[simp] theorem emptyBuffers_durHi (s : State) : (s.emptyBuffers).durHi = s.durHi := rfl
@[simp] theorem emptyBuffers_phase (s : State) : (s.emptyBuffers).phase = s.phase := rfl
@[simp] theorem emptyBuffers_err (s : State) : (s.emptyBuffers).err = s.err := rfl
@[simp] theorem emptyBuffers_errCode (s : State) : (s.emptyBuffers).errCode = s.errCode := rfl
@[simp] theorem emptyBuffers_silent (s : State) : (s.emptyBuffers).silent = s.silent := rfl
@[simp] theorem emptyBuffers_peak (s : State) : (s.emptyBuffers).peak = s.peak := rfl
@[simp] theorem emptyBuffers_sigIdx (s : State) : (s.emptyBuffers).sigIdx = s.sigIdx := rfl
@[simp] theorem emptyBuffers_mem (s : State) : (s.emptyBuffers).mem = { sig := [], pcm := [] } := rfl
@[simp] theorem emptyBuffers_pending (s : State) : (s.emptyBuffers).pending = s.pending := rfl
@[simp] theorem emptyBuffers_schedule (s : State) : (s.emptyBuffers).schedule = s.schedule := rfl
@[simp] theorem emptyBuffers_responses (s : State) : (s.emptyBuffers).responses = s.responses := rfl
@[simp] theorem emptyBuffers_draws (s : State) : (s.emptyBuffers).draws = s.draws := rfl

@[simp] theorem respond_params (r : Response) (s : State) : (s.respond r).params = s.params := rfl
@[simp] theorem respond_freqLo (r : Response) (s : State) : (s.respond r).freqLo = s.freqLo := rfl
@[simp] theorem respond_freqHi (r : Response) (s : State) : (s.respond r).freqHi = s.freqHi := rfl
@[simp] theorem respond_ampLo (r : Response) (s : State) : (s.respond r).ampLo = s.ampLo := rfl
@[simp] theorem respond_ampHi (r : Response) (s : State) : (s.respond r).ampHi = s.ampHi := rfl
@[simp] theorem respond_durLo (r : Response) (s : State) : (s.respond r).durLo = s.durLo := rfl
@[simp] theorem respond_durHi (r : Response) (s : State) : (s.respond r).durHi = s.durHi := rfl
@[simp] theorem respond_phase (r : Response) (s : State) : (s.respond r).phase = s.phase := rfl
@[simp] theorem respond_err (r : Response) (s : State) : (s.respond r).err = s.err := rfl
@[simp] theorem respond_errCode (r : Response) (s : State) : (s.respond r).errCode = s.errCode := rfl
@[simp] theorem respond_silent (r : Response) (s : State) : (s.respond r).silent = s.silent := rfl
@[simp] theorem respond_peak (r : Response) (s : State) : (s.respond r).peak = s.peak := rfl
@[simp] theorem respond_sigIdx (r : Response) (s : State) : (s.respond r).sigIdx = s.sigIdx := rfl
@[simp] theorem respond_mem (r : Response) (s : State) : (s.respond r).mem = s.mem := rfl
@[simp] theorem respond_pending (r : Response) (s : State) : (s.respond r).pending = s.pending := rfl
@[simp] theorem respond_schedule (r : Response) (s : State) : (s.respond r).schedule = s.schedule := rfl
@[simp] theorem respond_responses (r : Response) (s : State) : (s.respond r).responses = r :: s.responses := rfl
@[simp] theorem respond_draws (r : Response) (s : State) : (s.respond r).draws = s.draws := rfl

@[simp] theorem restOfSchedule_params (s : State) : (s.restOfSchedule).params = s.params := rfl
@[simp] theorem restOfSchedule_freqLo (s : State) : (s.restOfSchedule).freqLo = s.freqLo := rfl
@[simp] theorem restOfSchedule_freqHi (s : State) : (s.restOfSchedule).freqHi = s.freqHi := rfl
@[simp] theorem restOfSchedule_ampLo (s : State) : (s.restOfSchedule).ampLo = s.ampLo := rfl
@[simp] theorem restOfSchedule_ampHi (s : State) : (s.restOfSchedule).ampHi = s.ampHi := rfl
@[simp] theorem restOfSchedule_durLo (s : State) : (s.restOfSchedule).durLo = s.durLo := rfl
@[simp] theorem restOfSchedule_durHi (s : State) : (s.restOfSchedule).durHi = s.durHi := rfl
@[simp] theorem restOfSchedule_phase (s : State) : (s.restOfSchedule).phase = s.phase := rfl
@[simp] theorem restOfSchedule_err (s : State) : (s.restOfSchedule).err = s.err := rfl
@[simp] theorem restOfSchedule_errCode (s : State) : (s.restOfSchedule).errCode = s.errCode := rfl
@[simp] theorem restOfSchedule_silent (s : State) : (s.restOfSchedule).silent = s.silent := rfl
@[simp] theorem restOfSchedule_peak (s : State) : (s.restOfSchedule).peak = s.peak := rfl
@[simp] theorem restOfSchedule_sigIdx (s : State) : (s.restOfSchedule).sigIdx = s.sigIdx := rfl
@[simp] theorem restOfSchedule_mem (s : State) : (s.restOfSchedule).mem = s.mem := rfl
@[simp] theorem restOfSchedule_pending (s : State) : (s.restOfSchedule).pending = s.pending := rfl
@[simp] theorem restOfSchedule_schedule (s : State) : (s.restOfSchedule).schedule = s.schedule.tail := rfl
@[simp] theorem restOfSchedule_responses (s : State) : (s.restOfSchedule).responses = s.responses := rfl
@[simp] theorem restOfSchedule_draws (s : State) : (s.restOfSchedule).draws = s.draws := rfl

@[simp] theorem withPendingNext_params (w : Word) (s : State) : (s.withPendingNext w).params = s.params := rfl
@[simp] theorem withPendingNext_freqLo (w : Word) (s : State) : (s.withPendingNext w).freqLo = s.freqLo := rfl
@[simp] theorem withPendingNext_freqHi (w : Word) (s : State) : (s.withPendingNext w).freqHi = s.freqHi := rfl
@[simp] theorem withPendingNext_ampLo (w : Word) (s : State) : (s.withPendingNext w).ampLo = s.ampLo := rfl
@[simp] theorem withPendingNext_ampHi (w : Word) (s : State) : (s.withPendingNext w).ampHi = s.ampHi := rfl
@[simp] theorem withPendingNext_durLo (w : Word) (s : State) : (s.withPendingNext w).durLo = s.durLo := rfl
@[simp] theorem withPendingNext_durHi (w : Word) (s : State) : (s.withPendingNext w).durHi = s.durHi := rfl
@[simp] theorem withPendingNext_phase (w : Word) (s : State) : (s.withPendingNext w).phase = s.phase := rfl
@[simp] theorem withPendingNext_err (w : Word) (s : State) : (s.withPendingNext w).err = s.err := rfl
@[simp] theorem withPendingNext_errCode (w : Word) (s : State) : (s.withPendingNext w).errCode = s.errCode := rfl
@[simp] theorem withPendingNext_silent (w : Word) (s : State) : (s.withPendingNext w).silent = s.silent := rfl
@[simp] theorem withPendingNext_peak (w : Word) (s : State) : (s.withPendingNext w).peak = s.peak := rfl
@[simp] theorem withPendingNext_sigIdx (w : Word) (s : State) : (s.withPendingNext w).sigIdx = s.sigIdx := rfl
@[simp] theorem withPendingNext_mem (w : Word) (s : State) : (s.withPendingNext w).mem = s.mem := rfl
@[simp] theorem withPendingNext_pending (w : Word) (s : State) : (s.withPendingNext w).pending = some w := rfl
@[simp] theorem withPendingNext_schedule (w : Word) (s : State) : (s.withPendingNext w).schedule = .engine :: s.schedule := rfl
@[simp] theorem withPendingNext_responses (w : Word) (s : State) : (s.withPendingNext w).responses = s.responses := rfl
@[simp] theorem withPendingNext_draws (w : Word) (s : State) : (s.withPendingNext w).draws = s.draws := rfl

@[simp] theorem resetWith_params (p : Config.Params) : (State.resetWith p).params = p := rfl
@[simp] theorem resetWith_freqLo (p : Config.Params) : (State.resetWith p).freqLo = 0 := rfl
@[simp] theorem resetWith_freqHi (p : Config.Params) : (State.resetWith p).freqHi = 0 := rfl
@[simp] theorem resetWith_ampLo (p : Config.Params) : (State.resetWith p).ampLo = 0 := rfl
@[simp] theorem resetWith_ampHi (p : Config.Params) : (State.resetWith p).ampHi = 0 := rfl
@[simp] theorem resetWith_durLo (p : Config.Params) : (State.resetWith p).durLo = 0x9999999A := rfl
@[simp] theorem resetWith_durHi (p : Config.Params) : (State.resetWith p).durHi = 0x3FA99999 := rfl
@[simp] theorem resetWith_phase (p : Config.Params) : (State.resetWith p).phase = .assembling := rfl
@[simp] theorem resetWith_err (p : Config.Params) : (State.resetWith p).err = false := rfl
@[simp] theorem resetWith_errCode (p : Config.Params) : (State.resetWith p).errCode = .noError := rfl
@[simp] theorem resetWith_silent (p : Config.Params) : (State.resetWith p).silent = false := rfl
@[simp] theorem resetWith_peak (p : Config.Params) : (State.resetWith p).peak = 0 := rfl
@[simp] theorem resetWith_sigIdx (p : Config.Params) : (State.resetWith p).sigIdx = 0 := rfl
@[simp] theorem resetWith_mem (p : Config.Params) : (State.resetWith p).mem = { sig := [], pcm := [] } := rfl
@[simp] theorem resetWith_pending (p : Config.Params) : (State.resetWith p).pending = none := rfl
@[simp] theorem resetWith_schedule (p : Config.Params) : (State.resetWith p).schedule = [] := rfl
@[simp] theorem resetWith_responses (p : Config.Params) : (State.resetWith p).responses = [] := rfl
@[simp] theorem resetWith_draws (p : Config.Params) : (State.resetWith p).draws = 0 := rfl

@[simp] theorem resetEvent_params (s : State) : s.resetEvent.params = s.params := rfl
@[simp] theorem resetEvent_freqLo (s : State) : s.resetEvent.freqLo = 0 := rfl
@[simp] theorem resetEvent_freqHi (s : State) : s.resetEvent.freqHi = 0 := rfl
@[simp] theorem resetEvent_ampLo (s : State) : s.resetEvent.ampLo = 0 := rfl
@[simp] theorem resetEvent_ampHi (s : State) : s.resetEvent.ampHi = 0 := rfl
@[simp] theorem resetEvent_durLo (s : State) : s.resetEvent.durLo = 0x9999999A := rfl
@[simp] theorem resetEvent_durHi (s : State) : s.resetEvent.durHi = 0x3FA99999 := rfl
@[simp] theorem resetEvent_phase (s : State) : s.resetEvent.phase = .assembling := rfl
@[simp] theorem resetEvent_err (s : State) : s.resetEvent.err = false := rfl
@[simp] theorem resetEvent_errCode (s : State) : s.resetEvent.errCode = .noError := rfl
@[simp] theorem resetEvent_silent (s : State) : s.resetEvent.silent = false := rfl
@[simp] theorem resetEvent_peak (s : State) : s.resetEvent.peak = 0 := rfl
@[simp] theorem resetEvent_sigIdx (s : State) : s.resetEvent.sigIdx = 0 := rfl
@[simp] theorem resetEvent_mem (s : State) : s.resetEvent.mem = { sig := [], pcm := [] } := rfl
@[simp] theorem resetEvent_pending (s : State) : s.resetEvent.pending = none := rfl
@[simp] theorem resetEvent_schedule (s : State) : s.resetEvent.schedule = s.schedule := rfl
@[simp] theorem resetEvent_responses (s : State) : s.resetEvent.responses = s.responses := rfl
@[simp] theorem resetEvent_draws (s : State) : s.resetEvent.draws = s.draws := rfl

@[simp] theorem busy_accept (w : Word) (s : State) : (s.accept w).busy = true := rfl
@[simp] theorem busy_complete (s : State) : s.complete.busy = false := rfl
@[simp] theorem busy_errorEntry (c : ErrCode) (s : State) : (s.errorEntry c).busy = s.busy := rfl
@[simp] theorem busy_respond (r : Response) (s : State) : (s.respond r).busy = s.busy := rfl
@[simp] theorem len_errorEntry (c : ErrCode) (s : State) : (s.errorEntry c).len = s.len := rfl
@[simp] theorem pcmLen_errorEntry (c : ErrCode) (s : State) : (s.errorEntry c).pcmLen = s.pcmLen := rfl
@[simp] theorem len_respond (r : Response) (s : State) : (s.respond r).len = s.len := rfl
@[simp] theorem pcmLen_respond (r : Response) (s : State) : (s.respond r).pcmLen = s.pcmLen := rfl
@[simp] theorem len_appendSegment (seg : List F64) (s : State) : (s.appendSegment seg).len = s.len + seg.length := by
  simp [State.len]
@[simp] theorem pcmLen_appendSegment (seg : List F64) (s : State) : (s.appendSegment seg).pcmLen = s.pcmLen := rfl
@[simp] theorem len_rewriteSig (f : F64 → F64) (s : State) : (s.rewriteSig f).len = s.len := by simp [State.len]
@[simp] theorem pcmLen_rewriteSig (f : F64 → F64) (s : State) : (s.rewriteSig f).pcmLen = s.pcmLen := rfl
@[simp] theorem len_fillPcm (f : F64 → Sample) (s : State) : (s.fillPcm f).len = s.len := rfl
@[simp] theorem pcmLen_fillPcm (f : F64 → Sample) (s : State) : (s.fillPcm f).pcmLen = s.len := by
  simp [State.pcmLen, State.len]
@[simp] theorem len_emptyBuffers (s : State) : s.emptyBuffers.len = 0 := rfl
@[simp] theorem pcmLen_emptyBuffers (s : State) : s.emptyBuffers.pcmLen = 0 := rfl

end Sys2Proof.Machine
end

