-- ==== Sys2Proof/Laws/Ops.lean ====
section
/-! SUPPORT. One lemma per shared operation that says everything it can do. -/

namespace Sys2Proof.Machine

open Sys2Proof

/-- Running a command's pseudocode answers a next state, always. -/
theorem runCommand_eq (body : State → Except ErrCode State) (s : State) : runCommand body s = .next (s.settle (body s)) := rfl

@[simp] theorem settle_ok (s t : State) : s.settle (.ok t) = t := rfl

@[simp] theorem settle_error (s : State) (c : ErrCode) : s.settle (.error c) = s.errorEntry c := rfl

/-- What running a command's pseudocode answers: the state its body leaves, or the error entry of the code it raises. -/
theorem runCommand_cases {body : State → Except ErrCode State} {s t : State} (h : runCommand body s = .next t) :
    body s = .ok t ∨ ∃ c, body s = .error c ∧ t = s.errorEntry c := by
  rw [runCommand_eq, Host.Outcome.next.injEq] at h
  cases hb : body s with
  | ok t' => rw [hb] at h; exact .inl (congrArg _ h)
  | error c => rw [hb] at h; exact .inr ⟨c, rfl, h.symm⟩

/-- What issue does: an error while busy, a drop while ERR is 1 and the word is not that of `CLRERR`, acceptance otherwise. -/
theorem issue_cases (w : Word) (s : State) :
    (s.busy = true ∧ s.issue w = s.errorEntry .busyWrite) ∨
    (s.busy = false ∧ s.err = true ∧ w ≠ clrerrWord ∧ s.issue w = s) ∨
    (s.busy = false ∧ (s.err = false ∨ w = clrerrWord) ∧ s.issue w = s.accept w) := by
  unfold State.issue
  cases hb : s.busy
  · cases he : s.err
    · simp
    · by_cases hw : w = clrerrWord <;> simp [hw]
  · simp

/-- What a write to an argument register does. -/
theorem writeArg_cases (store : State → State) (s : State) :
    (s.busy = true ∧ s.writeArg store = s.errorEntry .busyWrite) ∨ (s.busy = false ∧ s.writeArg store = store s) := by
  unfold State.writeArg
  cases s.busy <;> simp

/-- What a read of a mapped word does: one more response, and for a result read while BUSY is 1 one more draw. -/
theorem busRead_cases (t : Target) (s : State) :
    (s.busy = true ∧ isResult t = true ∧
      s.busRead t = { s with responses := .data (Config.busyRead s.draws) :: s.responses, draws := s.draws + 1 }) ∨
    ((s.busy = false ∨ isResult t = false) ∧
      s.busRead t = { s with responses := .data (s.readTarget t) :: s.responses }) := by
  unfold State.busRead
  cases hb : s.busy <;> cases hr : isResult t <;> simp [State.respond]

/-- When the address decode answers a target. -/
theorem decodeAccess_ok {p : Config.Params} {width : Width} {addr : Nat} {t : Target} :
    decodeAccess p width addr = .ok t ↔
      width = .bits32 ∧ p.base ≤ addr ∧ addr - p.base < 2 ^ 32 ∧ (addr - p.base) % 4 = 0 ∧
        decodeOffset p.maxSamples (addr - p.base) = some t := by
  unfold decodeAccess
  split
  · rename_i h
    obtain ⟨h1, h2, h3, h4⟩ := h
    cases hd : decodeOffset p.maxSamples (addr - p.base) <;> simp [h1, h2, h4]
    exact fun _ => h3
  · rename_i h
    simp only [reduceCtorEq, false_iff]
    rintro ⟨h1, h2, h3, h4, -⟩
    exact h ⟨h1, h2, h3, h4⟩

/-- The address decode answers a target or the one bus error. -/
theorem decodeAccess_cases (p : Config.Params) (width : Width) (addr : Nat) :
    (∃ t, decodeAccess p width addr = .ok t) ∨ decodeAccess p width addr = .error .busError := by
  cases h : decodeAccess p width addr with
  | ok t => exact .inl ⟨t, rfl⟩
  | error f => cases f; exact .inr rfl

/-- What one access does. -/
theorem busAccess_cases (a : Access) (s : State) :
    (∃ width addr t, a = .read width addr ∧ decodeAccess s.params width addr = .ok t ∧ s.busAccess a = s.busRead t) ∨
    (∃ width addr v t, a = .write width addr v ∧ decodeAccess s.params width addr = .ok t ∧
      s.busAccess a = (s.writeTarget t v).respond .written) ∨
    s.busAccess a = s.respond (.error .busError) := by
  cases a with
  | read width addr =>
    rcases decodeAccess_cases s.params width addr with ⟨t, h⟩ | h
    · exact .inl ⟨width, addr, t, rfl, h, by simp [State.busAccess, h]⟩
    · exact .inr (.inr (by simp [State.busAccess, h]))
  | write width addr v =>
    rcases decodeAccess_cases s.params width addr with ⟨t, h⟩ | h
    · exact .inr (.inl ⟨width, addr, v, t, rfl, h, by simp [State.busAccess, h]⟩)
    · exact .inr (.inr (by simp [State.busAccess, h]))

/-- What a write to a mapped word does: nothing, an error entry for BUSY_WRITE, an acceptance, or one register stored. -/
theorem writeTarget_cases (t : Target) (v : Word) (s : State) :
    s.writeTarget t v = s ∨
    (s.busy = true ∧ s.writeTarget t v = s.errorEntry .busyWrite) ∨
    (s.busy = false ∧ t = .reg .cmd ∧ (s.err = false ∨ v = clrerrWord) ∧ s.writeTarget t v = s.accept v) ∨
    s.writeTarget t v = { s with sigIdx := v } ∨
    (s.busy = false ∧
      (s.writeTarget t v = { s with freqLo := v } ∨ s.writeTarget t v = { s with freqHi := v } ∨
       s.writeTarget t v = { s with ampLo := v } ∨ s.writeTarget t v = { s with ampHi := v } ∨
       s.writeTarget t v = { s with durLo := v } ∨ s.writeTarget t v = { s with durHi := v })) := by
  cases t with
  | window k => exact .inl rfl
  | reg r =>
    cases r with
    | cmd =>
      rcases issue_cases v s with ⟨h, e⟩ | ⟨-, -, -, e⟩ | ⟨h, h', e⟩
      · exact .inr (.inl ⟨h, e⟩)
      · exact .inl e
      · exact .inr (.inr (.inl ⟨h, rfl, h', e⟩))
    | freqLo | freqHi | ampLo | ampHi | durLo | durHi =>
      simp only [State.writeTarget, State.writeReg, State.writeArg]
      cases s.busy <;> simp
    | sigIdx => exact .inr (.inr (.inr (.inl rfl)))
    | status | len | pcmLen | peakLo | peakHi | sigDataLo | sigDataHi | capacity => exact .inl rfl

/-- When the part of `SYNTH` after the sample count completes, and what it raises otherwise. -/
theorem appendChecked_cases (s : State) (count : Nat) (seg : List F64) :
    (s.params.maxSamples < s.len + count ∧ appendChecked s count seg = .error .capacity) ∨
    (s.len + count ≤ s.params.maxSamples ∧ (∀ x ∈ seg, F64.isFinite x = true) ∧
      appendChecked s count seg = .ok (s.appendSegment seg)) ∨
    (s.len + count ≤ s.params.maxSamples ∧ (∃ x ∈ seg, F64.isFinite x = false) ∧
      appendChecked s count seg = .error .numeric) := by
  unfold appendChecked
  split
  · simp_all
  · rename_i h
    split
    · rename_i h'
      exact .inr (.inl ⟨by omega, by simpa using h', rfl⟩)
    · rename_i h'
      exact .inr (.inr ⟨by omega, by simpa using h', rfl⟩)

/-- When `SYNTH` completes: in ASSEMBLING, with good arguments, a sample count that fits and finite samples; the segment is
appended. -/
theorem synthBody_ok {gen : F64 → F64 → F64} {s t : State} (h : synthBody gen s = .ok t) :
    s.phase = .assembling ∧ argsOk s.freq s.amp s.dur = true ∧
      ∃ count, sampleCount s.dur = some count ∧ s.len + count ≤ s.params.maxSamples ∧
        (∀ x ∈ segmentSamples gen s.freq s.amp s.dur count, F64.isFinite x = true) ∧
        t = s.appendSegment (segmentSamples gen s.freq s.amp s.dur count) := by
  unfold synthBody at h
  split at h
  · cases h
  · rename_i hp
    split at h
    · cases h
    · rename_i ha
      cases hc : sampleCount s.dur with
      | none => rw [hc] at h; cases h
      | some count =>
        rw [hc] at h
        rcases appendChecked_cases s count (segmentSamples gen s.freq s.amp s.dur count) with ⟨-, e⟩ | ⟨hl, hf, e⟩ | ⟨-, -, e⟩
        · simp [e] at h
        · simp only [e, Except.ok.injEq] at h
          exact ⟨by simpa using hp, by simpa using ha, count, rfl, hl, hf, h.symm⟩
        · simp [e] at h

/-- The converse: under those conditions `SYNTH` completes. -/
theorem synthBody_eq {gen : F64 → F64 → F64} {s : State} {count : Nat} (hp : s.phase = .assembling)
    (ha : argsOk s.freq s.amp s.dur = true) (hc : sampleCount s.dur = some count)
    (hl : s.len + count ≤ s.params.maxSamples)
    (hf : ∀ x ∈ segmentSamples gen s.freq s.amp s.dur count, F64.isFinite x = true) :
    synthBody gen s = .ok (s.appendSegment (segmentSamples gen s.freq s.amp s.dur count)) := by
  have hall : (segmentSamples gen s.freq s.amp s.dur count).all F64.isFinite = true := by simpa using hf
  simp [synthBody, hp, ha, hc, appendChecked, Nat.not_lt.2 hl, hall]

@[simp] theorem segmentSamples_length (gen : F64 → F64 → F64) (f a d : F64) (count : Nat) :
    (segmentSamples gen f a d count).length = count := by simp [segmentSamples]

/-- A `SYNTH` that raises raises one of the four codes. -/
theorem synthBody_error {gen : F64 → F64 → F64} {s : State} {c : ErrCode} (h : synthBody gen s = .error c) :
    c = .sequence ∨ c = .badArg ∨ c = .capacity ∨ c = .numeric := by
  unfold synthBody at h
  split at h
  · simp_all
  · split at h
    · simp_all
    · cases hc : sampleCount s.dur with
      | none => simp_all
      | some count =>
        rw [hc] at h
        rcases appendChecked_cases s count (segmentSamples gen s.freq s.amp s.dur count) with ⟨-, e⟩ | ⟨-, -, e⟩ | ⟨-, -, e⟩ <;>
          simp_all

/-- What `QUANT` does. -/
theorem quantBody_cases (s : State) :
    (s.phase = .assembling ∧ quantBody s = .error .sequence) ∨
    (s.phase ≠ .assembling ∧ quantBody s = .ok { s.fillPcm quantize with phase := .quantized }) := by
  unfold quantBody
  split <;> simp_all

/-- What `NORM` does. -/
theorem normBody_cases (s : State) :
    (s.len = 0 ∧ normBody s = { s with peak := F64.zero, silent := true, phase := .normalized }) ∨
    (s.len ≠ 0 ∧ F64.lt F64.zero (peakOf s.mem.sig) = true ∧
      normBody s = { s.rewriteSig (fun x => F64.div x (peakOf s.mem.sig)) with
        peak := peakOf s.mem.sig, silent := false, phase := .normalized }) ∨
    (s.len ≠ 0 ∧ F64.lt F64.zero (peakOf s.mem.sig) = false ∧
      normBody s = { s with peak := peakOf s.mem.sig, silent := true, phase := .normalized }) := by
  unfold normBody
  split
  · simp_all
  · split <;> simp_all

/-- Every command answers a next state. -/
theorem exec_next (i : Instr) (s : State) : ∃ t, exec i s = .next t := by
  cases i <;> exact ⟨_, rfl⟩

@[simp] theorem completeOutcome_next (t : State) : completeOutcome (.next t) = .next t.complete := rfl

/-- What the engine step on a pending word does. -/
theorem engineStep_cases (w : Word) (s : State) :
    ((∃ e, decodeWord w = .error e) ∧ engineStep w s = .next (s.errorEntry .illegalCmd).complete) ∨
    (∃ i t, decodeWord w = .ok i ∧ exec i s = .next t ∧ engineStep w s = .next t.complete) := by
  unfold engineStep
  cases h : decodeWord w with
  | error e => exact .inl ⟨⟨e, rfl⟩, rfl⟩
  | ok i =>
    obtain ⟨t, ht⟩ := exec_next i s
    exact .inr ⟨i, t, rfl, ht, by simp [ht]⟩

/-- What one step does. -/
theorem step_cases (s : State) :
    (∃ a, s.nextTurn = .access a ∧ step s = .next (s.restOfSchedule.busAccess a)) ∨
    (s.nextTurn = .reset ∧ step s = .next s.restOfSchedule.resetEvent) ∨
    (s.nextTurn = .engine ∧ s.pending = none ∧ step s = .next s.restOfSchedule) ∨
    (∃ w, s.nextTurn = .engine ∧ s.pending = some w ∧ step s = engineStep w s.restOfSchedule) := by
  unfold step
  cases h : s.nextTurn with
  | access a => exact .inl ⟨a, rfl, rfl⟩
  | reset => exact .inr (.inl ⟨rfl, rfl⟩)
  | engine =>
    cases hp : s.pending with
    | none => exact .inr (.inr (.inl ⟨rfl, rfl, by simp [takeTurn, engineTurn, hp]⟩))
    | some w => exact .inr (.inr (.inr ⟨w, rfl, rfl, by simp [takeTurn, engineTurn, hp]⟩))

end Sys2Proof.Machine
end

