-- ==== Sys2Proof/Laws/Bus.lean ====
section
/-! SUPPORT. The address decode at `BASE + off`, and a step that is a bus access. -/

namespace Sys2Proof.Machine

open Sys2Proof

theorem step_access {s : State} {a : Access} (h : s.nextTurn = .access a) :
    step s = .next (s.restOfSchedule.busAccess a) := by simp [step, h, takeTurn]

theorem step_reset {s : State} (h : s.nextTurn = .reset) : step s = .next s.restOfSchedule.resetEvent := by
  simp [step, h, takeTurn]

theorem step_engine {s : State} (h : s.nextTurn = .engine) : step s = engineTurn s.restOfSchedule := by
  simp [step, h, takeTurn]

/-- The decode of an aligned 32-bit access at `BASE + off`. -/
theorem decodeAccess_base_add {p : Config.Params} {off : Nat} {t : Target} (hlt : off < 2 ^ 32) (hal : off % 4 = 0)
    (ht : decodeOffset p.maxSamples off = some t) : decodeAccess p .bits32 (p.base + off) = .ok t := by
  rw [decodeAccess_ok]
  simpa [hal, ht] using hlt

/-- An offset in the register table is aligned and at most 0x3C, and conversely. -/
theorem regAt_isSome (off : Nat) : (regAt off).isSome = true ↔ off % 4 = 0 ∧ off ≤ 0x3C := by
  constructor
  · intro h
    unfold regAt at h
    split at h <;> simp_all
  · rintro ⟨h4, hle⟩
    obtain ⟨k, rfl⟩ : ∃ k, off = 4 * k := ⟨off / 4, by omega⟩
    have hk : k < 16 := by omega
    interval_cases k <;> rfl

theorem decodeOffset_reg {n off : Nat} {r : Reg} (h : regAt off = some r) : decodeOffset n off = some (.reg r) := by
  simp [decodeOffset, h]

/-- Window word `k` is at offset `0x1000 + 4k`. -/
theorem decodeOffset_window {n k : Nat} (h : k < windowWords n) : decodeOffset n (0x1000 + 4 * k) = some (.window k) := by
  have hr : regAt (0x1000 + 4 * k) = none := by
    rw [← Option.not_isSome_iff_eq_none, regAt_isSome]
    omega
  have hw : 0x1000 ≤ 0x1000 + 4 * k ∧ 0x1000 + 4 * k < 0x1000 + 4 * windowWords n := by omega
  rw [decodeOffset, hr]
  simp only [hw, and_self, if_true, Option.some.injEq, Target.window.injEq]
  omega

/-- With legal parameters the window lies within the 32-bit offsets (00_scope.md R7). -/
theorem window_offset_lt {p : Config.Params} (hp : p.Legal) {k : Nat} (h : k < windowWords p.maxSamples) :
    0x1000 + 4 * k < 2 ^ 32 := by
  have := hp.maxSamples
  unfold windowWords at h
  omega

/-- An unmapped offset. -/
theorem decodeOffset_none {n off : Nat} (hr : ¬(off % 4 = 0 ∧ off ≤ 0x3C))
    (hw : ¬(0x1000 ≤ off ∧ off < 0x1000 + 4 * windowWords n)) : decodeOffset n off = none := by
  have : regAt off = none := by rw [← Option.not_isSome_iff_eq_none, regAt_isSome]; exact hr
  simp only [decodeOffset, this, hw, if_false]

end Sys2Proof.Machine
end

