-- ==== Sys2Proof/Laws/PerInstr.lean ====
section
/-! SUPPORT. Facts about every command as syntax, one lemma per constructor. -/

namespace Sys2Proof.Laws.ReservedBitsZero

open Sys2Proof

/-- The word of a command has a zero RSVD field, and a zero KIND field unless its OP is 3 (30_encoding.md R81). -/
def Statement (i : Instr) : Prop := rsvdField (encode i) = 0 ∧ (opField (encode i) = 3 ∨ kindField (encode i) = 0)

theorem nop : Statement .nop := by unfold Statement; decide
theorem clear : Statement .clear := by unfold Statement; decide
theorem clrerr : Statement .clrerr := by unfold Statement; decide
theorem synthSin : Statement .synthSin := by unfold Statement; decide
theorem synthTri : Statement .synthTri := by unfold Statement; decide
theorem synthSqr : Statement .synthSqr := by unfold Statement; decide
theorem synthZero (k : BitVec 4) : Statement (.synthZero k) := by unfold Statement; revert k; decide
theorem norm : Statement .norm := by unfold Statement; decide
theorem quant : Statement .quant := by unfold Statement; decide

end Sys2Proof.Laws.ReservedBitsZero
end

