-- ==== Sys2Proof/Laws/Decode.lean ====
section
/-! SUPPORT. What the decoder reads from a word, field by field. -/

namespace Sys2Proof

/-- A word is its three fields. -/
theorem word_eq_fields (w : Word) : w = rsvdField w ++ kindField w ++ opField w := by
  have or_eq : ∀ a b : Nat, b < 2 ^ 4 → a * 2 ^ 4 ||| b = a * 2 ^ 4 + b := fun a b h => by
    rw [← Nat.shiftLeft_eq, ← Nat.shiftLeft_add_eq_or_of_lt h]
  apply BitVec.eq_of_toNat_eq
  have h := w.isLt
  simp only [rsvdField, kindField, opField, BitVec.toNat_append, BitVec.extractLsb'_toNat, Nat.shiftLeft_eq,
    Nat.shiftRight_eq_div_pow]
  rw [or_eq _ _ (Nat.mod_lt _ (by positivity)), or_eq _ _ (Nat.mod_lt _ (by positivity))]
  omega

/-- A word whose RSVD field is 0 is the command word of its KIND and OP fields. -/
theorem eq_commandWord {w : Word} (h : rsvdField w = 0) : w = commandWord (kindField w) (opField w) := by
  conv_lhs => rw [word_eq_fields w, h]
  rfl

/-- The decoder on a command word: its two fields decide. -/
theorem decodeWord_of_rsvd {w : Word} (h : rsvdField w = 0) :
    decodeWord w = if opField w = 3 then .ok (decodeSynth (kindField w))
      else if kindField w ≠ 0 then .error .kindNotZero else decodeOp (opField w) := by
  simp [decodeWord, h]

theorem decodeWord_of_rsvd_ne {w : Word} (h : rsvdField w ≠ 0) : decodeWord w = .error .reservedBits := if_pos h

end Sys2Proof
end

