-- ==== Sys2Proof/Laws/Memory.lean ====
section
/-! SUPPORT. Every operation on the two buffers keeps their form (`Memory.wf`), and reset has it. -/

namespace Sys2Proof.Machine

open Sys2Proof

theorem Memory.wf_iff (n : Nat) (m : Memory) :
    m.wf n = true ↔ m.sig.length ≤ n ∧ m.pcm.length ≤ n ∧ ∀ x ∈ m.sig, F64.isFinite x = true := by
  simp [Memory.wf, and_assoc]

theorem resetWith_wf (p : Config.Params) : (State.resetWith p).mem.wf p.maxSamples = true := by
  simp [Memory.wf_iff]

theorem reset_wf : State.reset.mem.wf State.reset.params.maxSamples = true := resetWith_wf _

theorem emptyBuffers_wf (s : State) (n : Nat) : s.emptyBuffers.mem.wf n = true := by
  simp [Memory.wf_iff]

/-- A finite segment that fits may be appended. -/
theorem appendSegment_wf {s : State} {n : Nat} {seg : List F64} (h : s.mem.wf n = true) (hl : s.len + seg.length ≤ n)
    (hf : ∀ x ∈ seg, F64.isFinite x = true) : (s.appendSegment seg).mem.wf n = true := by
  rw [Memory.wf_iff] at h ⊢
  refine ⟨by simpa [State.len] using hl, h.2.1, ?_⟩
  intro x hx
  rcases List.mem_append.1 hx with hx | hx
  · exact h.2.2 x hx
  · exact hf x hx

theorem fillPcm_wf {s : State} {n : Nat} (f : F64 → Sample) (h : s.mem.wf n = true) : (s.fillPcm f).mem.wf n = true := by
  rw [Memory.wf_iff] at h ⊢
  exact ⟨h.1, by simpa using h.1, h.2.2⟩

/-- Dividing every sample by a positive peak keeps the form. -/
theorem rewriteSig_div_peak_wf {s : State} {n : Nat} (h : s.mem.wf n = true)
    (hp : F64.lt F64.zero (peakOf s.mem.sig) = true) :
    (s.rewriteSig fun x => F64.div x (peakOf s.mem.sig)).mem.wf n = true := by
  rw [Memory.wf_iff] at h ⊢
  obtain ⟨hl, hpl, hf⟩ := h
  obtain ⟨hsign, hfin, hmax, -⟩ := peakOf_spec _ hf
  have h0 : F64.isZero (peakOf s.mem.sig) = false := by
    rw [F64.lt_of_nonneg (by decide) hsign (by decide) (F64.not_isNaN_of_isFinite hfin)] at hp
    have hz : F64.mag F64.zero = 0 := by decide
    simp [hz] at hp
    simp [F64.isZero]
    omega
  refine ⟨by simpa using hl, hpl, ?_⟩
  intro y hy
  obtain ⟨x, hx, rfl⟩ := List.mem_map.1 hy
  rw [F64.isFinite_iff]
  exact lt_of_le_of_lt (mag_div_peak_le hfin h0 (hmax x hx)) (by decide)

/-- `NORM` keeps the form. -/
theorem normBody_wf {s : State} {n : Nat} (h : s.mem.wf n = true) : (normBody s).mem.wf n = true := by
  rcases normBody_cases s with ⟨-, e⟩ | ⟨-, hp, e⟩ | ⟨-, -, e⟩
  · rw [e]; exact h
  · rw [e]; exact rewriteSig_div_peak_wf h hp
  · rw [e]; exact h

end Sys2Proof.Machine
end

