-- ==== Sys2Proof/Tests/Slice0.lean ====
section
/-! SUPPORT. The model's own tests. Expected values are those of spec/95_test_vectors.md (named V-… in the comments) or follow by
hand from the rules; the witness theorems at the end show that the hypotheses of the statements can be met. -/

set_option Elab.async false

namespace Sys2Proof.Tests

open Sys2Proof Sys2Proof.Machine

/-! ### Well-formedness: the one check refuses the known kinds -/

theorem test_wf_refuses_kind_0 : (Instr.synthZero 0).wf = false := by decide
theorem test_wf_refuses_kind_2 : (Instr.synthZero 2).wf = false := by decide
theorem test_wf_accepts_kind_3 : (Instr.synthZero 3).wf = true := by decide
theorem test_wf_accepts_kind_15 : (Instr.synthZero 15).wf = true := by decide

/-! ### Decoding: words written out from 30_encoding.md R81 and R87 (RSVD, KIND, OP) -/

theorem test_decode_nop : decodeWord 0b000000000000000000000000_0000_0000 = .ok .nop := by decide
theorem test_decode_clear : decodeWord 0b000000000000000000000000_0000_0001 = .ok .clear := by decide
theorem test_decode_clrerr : decodeWord 0b000000000000000000000000_0000_0010 = .ok .clrerr := by decide
theorem test_decode_synthSin : decodeWord 0b000000000000000000000000_0000_0011 = .ok .synthSin := by decide
theorem test_decode_synthTri : decodeWord 0b000000000000000000000000_0001_0011 = .ok .synthTri := by decide
theorem test_decode_synthSqr : decodeWord 0b000000000000000000000000_0010_0011 = .ok .synthSqr := by decide
theorem test_decode_synthZero_3 : decodeWord 0b000000000000000000000000_0011_0011 = .ok (.synthZero 3) := by decide
theorem test_decode_synthZero_7 : decodeWord 0b000000000000000000000000_0111_0011 = .ok (.synthZero 7) := by decide
theorem test_decode_synthZero_15 : decodeWord 0b000000000000000000000000_1111_0011 = .ok (.synthZero 15) := by decide
theorem test_decode_norm : decodeWord 0b000000000000000000000000_0000_0100 = .ok .norm := by decide
theorem test_decode_quant : decodeWord 0b000000000000000000000000_0000_0101 = .ok .quant := by decide
/-- V-K7 -/
theorem test_decode_reserved_op : decodeWord 0x00000006 = .error .reservedOp := by decide
/-- V-K8 -/
theorem test_decode_kind_not_zero : decodeWord 0x00000014 = .error .kindNotZero := by decide
/-- V-K9 -/
theorem test_decode_reserved_bits : decodeWord 0x00000103 = .error .reservedBits := by decide
theorem test_decode_bytes_little_endian : decodeBytes [0x73, 0, 0, 0, 9] = .ok (.synthZero 7, [9]) := by decide
theorem test_decode_bytes_high_byte : decodeBytes [0x03, 0, 0, 1] = .error .reservedBits := by decide
theorem test_decode_bytes_short : decodeBytes [3, 0, 0] = .error .tooShort := by decide
theorem test_encode_words : [encode .nop, encode .clear, encode .clrerr, encode .synthSin, encode .synthTri, encode .synthSqr,
    encode (.synthZero 15), encode .norm, encode .quant] = [0, 1, 2, 3, 0x13, 0x23, 0xF3, 4, 5] := by decide
theorem test_decodeTableWord : decodeTableWord 32 0x83 = some (.synthZero 8) := by decide

/-! ### Binary64 and the formulas -/

/-- V-C1, V-C4, V-C5 and V-C7: the sample counts, ties away from zero. -/
theorem test_sampleCount : [sampleCount 0x3FA999999999999A, sampleCount 0x3FC0000000000000, sampleCount 0x3F9999999999999A,
    sampleCount 0x3EB0000000000000] = [some 2205, some 5513, some 1103, some 0] := by decide +kernel
/-- V-C3, V-C10: a negative zero counts 0, an overflow counts `+inf`. -/
theorem test_sampleCount_edges : [sampleCount 0x8000000000000000, sampleCount 0x7FEFFFFFFFFFFFFF] = [some 0, none] := by
  decide +kernel
/-- 41_synthesizer.md R104: the default step is the binary64 `1.0 / 44100.0`. -/
theorem test_time_step : timeAt 1 0x3FA999999999999A 2205 = 0x3EF7C6F8C751F177 := by decide +kernel
/-- V-T1 to V-T6. -/
theorem test_tri_quarters : [tri 0, tri 0x3FC0000000000000, tri 0x3FD0000000000000, tri 0x3FE0000000000000,
    tri 0x3FE8000000000000, tri 0x3FF0000000000000] =
    [F64.negOne, 0xBFE0000000000000, F64.zero, F64.one, F64.zero, F64.negOne] := by decide +kernel
/-- V-T8 to V-T11: negative phases, and the neighbours of one half. -/
theorem test_tri_rounding : [tri 0xBFD0000000000000, tri 0xBFE0000000000000, tri 0x3FDFFFFFFFFFFFFF, tri 0x3FE0000000000001] =
    [F64.zero, F64.one, F64.one, 0x3FEFFFFFFFFFFFFC] := by decide +kernel
/-- V-T12 to V-T14: the 3.0 of an odd integer phase above 2^52. -/
theorem test_tri_large : [tri 0x4330000000000001, tri 0x4330000000000002, tri 0x4340000000000000] =
    [0x4008000000000000, F64.negOne, F64.negOne] := by decide +kernel
/-- V-P1 to V-P6: the PCM values, halves away from zero. -/
theorem test_quantizeInt : [quantizeInt F64.one, quantizeInt F64.negOne, quantizeInt 0x8000000000000000,
    quantizeInt 0x3FE0000000000000, quantizeInt 0xBFE0000000000000, quantizeInt 0x3FD0000000000000] =
    [32767, -32767, 0, 16384, -16384, 8192] := by decide +kernel
/-- V-P8, V-P10, V-P11, V-P13. -/
theorem test_quantizeInt_ties : [quantizeInt 0x3EF0002000400080, quantizeInt 0x3F080030006000C0,
    quantizeInt 0xBF080030006000C0, quantizeInt 1] = [1, 2, -2, 0] := by decide +kernel
/-- Gradual underflow, overflow and the signs of zero sums (00_scope.md R11). -/
theorem test_binary64_edges : [F64.mul 1 0x3FE0000000000000, F64.mul 3 0x3FE0000000000000,
    F64.add 0x7FEFFFFFFFFFFFFF 0x7FEFFFFFFFFFFFFF, F64.add 0x8000000000000000 0x8000000000000000,
    F64.sub F64.one F64.one, F64.floor 0x8000000000000000] =
    [0, 2, 0x7FF0000000000000, 0x8000000000000000, 0, 0x8000000000000000] := by decide +kernel
/-- V-SQ2: the phase 3.141592653589793 is below pi, its successor above. -/
theorem test_sineSign_at_pi : [sineSign 0x400921FB54442D18, sineSign 0x400921FB54442D19, sineSign 0xC00921FB54442D18] =
    [F64.one, F64.negOne, F64.negOne] := by decide +kernel

/-! ### One command each -/

/-- What a field of the state after an outcome is. -/
def after {α : Type} (o : Host.Outcome State Fault Refusal) (f : State → α) : Option α :=
  match o with
  | .next s => some (f s)
  | .fault _ => none
  | .refused _ => none

/-- `FREQ = 11025.0`, `AMP = 0.25`, `DUR = 4/44100` on a reset block (V-S10, V-T21, V-SQ2). -/
def short : State :=
  { State.reset with freqHi := 0x40C58880, ampHi := 0x3FD00000, durHi := 0x3F17C6F8, durLo := 0xC751F177 }

/-- A normalized block with a signal. -/
def normalizedWith (sig : List F64) : State := { State.reset with phase := .normalized, mem := { sig := sig, pcm := [] } }

/-- V-K1 -/
theorem test_nop : after (step (State.reset.withFetchWord 32 0)) (fun s => (s.status, s.pending)) = some (0, none) := by decide +kernel
/-- V-K2, with a shorter signal. -/
theorem test_clear : after (step (State.withFetchWord { normalizedWith [F64.one] with silent := true, peak := F64.one } 32 1))
    (fun s => (s.len, s.peak, s.status)) = some (0, 0, 0) := by decide +kernel
/-- V-K4 -/
theorem test_clrerr : after (step (State.withFetchWord { normalizedWith [] with err := true, errCode := .sequence } 32 2))
    (fun s => s.status) = some 0x002 := by decide +kernel
/-- V-S8, with the short duration: a zero frequency gives zero samples. -/
theorem test_synthSin_zero_frequency : after (step (State.withFetchWord { short with freqHi := 0 } 32 0x03))
    (fun s => s.mem.sig) = some [0, 0, 0, 0] := by decide +kernel
/-- V-S11 -/
theorem test_synthSin_numeric : after (step (State.withFetchWord { short with freqHi := 0x7FE1CCF3, freqLo := 0x85EBC8A0 } 32 0x03))
    (fun s => (s.status, s.len)) = some (0x68, 0) := by decide +kernel
/-- V-T21 -/
theorem test_synthTri : after (step (short.withFetchWord 32 0x13)) (fun s => s.mem.sig) =
    some [0xBFD0000000000000, 0, 0x3FD0000000000000, 0] := by decide +kernel
/-- V-X6, with a shorter signal: SEQUENCE comes before BAD_ARG. -/
theorem test_synthTri_sequence : after (step (State.withFetchWord { normalizedWith [] with durHi := 0xBFF00000 } 32 0x13))
    (fun s => s.status) = some 0x3A := by decide +kernel
/-- V-SQ2 -/
theorem test_synthSqr : after (step (short.withFetchWord 32 0x23)) (fun s => s.mem.sig) =
    some [0, 0x3FD0000000000000, 0x3FD0000000000000, 0xBFD0000000000000] := by decide +kernel
/-- V-X4, with the short duration: the command does not fit. -/
theorem test_synthSqr_capacity : after (step (State.withFetchWord
    { short with params := { maxSamples := 7, base := 0 }, mem := { sig := [1, 1, 1, 1], pcm := [] } } 32 0x23))
    (fun s => (s.status, s.len)) = some (0x58, 4) := by decide +kernel
/-- V-Z2 -/
theorem test_synthZero : after (step (State.withFetchWord { short with ampHi := 0xBFE00000 } 32 0xF3)) (fun s => s.mem.sig) =
    some (List.replicate 4 0x8000000000000000) := by decide +kernel
/-- V-Z3 -/
theorem test_synthZero_badArg : after (step (State.withFetchWord { State.reset with freqHi := 0x7FF80000 } 32 0x43))
    (fun s => s.status) = some 0x48 := by decide +kernel
/-- V-N6 -/
theorem test_norm : after (step (State.withFetchWord
    (normalizedWith [0x3FD3333333333333, 0xBFB999999999999A, 0x3FC999999999999A]) 32 4)) (fun s => (s.mem.sig, s.peak)) =
    some ([0x3FF0000000000000, 0xBFD5555555555556, 0x3FE5555555555556], 0x3FD3333333333333) := by decide +kernel
/-- V-N3 -/
theorem test_norm_silent : after (step (State.withFetchWord (normalizedWith [0, 0x8000000000000000]) 32 4))
    (fun s => (s.mem.sig, s.status)) = some ([0, 0x8000000000000000], 0x102) := by decide +kernel
/-- V-P14 -/
theorem test_quant : after (step (State.withFetchWord (normalizedWith [F64.one, 0xBFE0000000000000, 0]) 32 5))
    (fun s => (s.mem.pcm.map BitVec.toInt, s.status, s.readTarget (.window 0))) =
    some ([32767, -16384, 0], 0x004, 0xC0007FFF) := by decide +kernel
/-- V-P17 -/
theorem test_quant_sequence : after (step (short.withFetchWord 32 5)) (fun s => s.status) = some 0x38 := by decide +kernel
/-- V-K9 -/
theorem test_illegal_word : after (step (State.reset.withFetchWord 32 0x103)) (fun s => (s.status, s.pending)) =
    some (0x18, none) := by decide +kernel

/-! ### The bus, reset and the order of turns -/

/-- A block with turns to take. -/
def withTurns (s : State) (turns : List Turn) : State := { s with schedule := turns }

/-- V-K10, with the short duration: STATUS reads 0x29 until the engine step, 0x28 after it, and the pending SYNTH still runs. -/
theorem test_busy_write : after (Host.Core.run core 5 (withTurns short
    [.access (.write .bits32 0 0x23), .access (.write .bits32 0 0), .access (.read .bits32 4), .engine,
      .access (.read .bits32 4)])) (fun s => (s.responses, s.len)) =
    some ([.data 0x28, .data 0x29, .written, .written], 4) := by decide +kernel
/-- V-K5, V-K6: while ERR is 1 other words are dropped. -/
theorem test_err_blocks : after (Host.Core.run core 2 (withTurns { State.reset with err := true, errCode := .sequence }
    [.access (.write .bits32 0 3), .access (.write .bits32 0 0x102)])) (fun s => (s.status, s.pending)) =
    some (0x38, none) := by decide +kernel
/-- V-B2, V-B3, V-B4: misaligned, narrow and unmapped accesses. -/
theorem test_bus_errors : after (Host.Core.run core 3 (withTurns State.reset
    [.access (.read .bits32 2), .access (.read .bits16 4), .access (.read .bits32 0x40)])) (fun s => s.responses) =
    some [.error .busError, .error .busError, .error .busError] := by decide +kernel
/-- V-B1: DUR and CAPACITY after reset. -/
theorem test_reset_reads : after (Host.Core.run core 3 (withTurns State.reset
    [.access (.read .bits32 0x18), .access (.read .bits32 0x1C), .access (.read .bits32 0x3C)])) (fun s => s.responses) =
    some [.data 0x7FFFF800, .data 0x3FA99999, .data 0x9999999A] := by decide +kernel
/-- V-B12: reset during a pending command. -/
theorem test_reset_event : after (step (withTurns { short with pending := some 3 } [.reset])) (fun s => decide (s = State.reset)) =
    some true := by decide +kernel
/-- V-B10, V-B11. -/
theorem test_sig_data : after (Host.Core.run core 4 (withTurns (normalizedWith [F64.one, 0xBFE0000000000000, 0])
    [.access (.write .bits32 0x30 1), .access (.read .bits32 0x38), .access (.write .bits32 0x30 0xFFFFFFFF),
      .access (.read .bits32 0x38)])) (fun s => s.responses) =
    some [.data 0, .written, .data 0xBFE00000, .written] := by decide +kernel

/-! ### Witnesses: concrete states and operands that meet the hypotheses of the statements -/

/-- DecodeInvertsEncode, SynthZeroAppendsScaledZeros: both ends of the operand's range. -/
theorem witness_wellFormed : (Instr.synthZero 3).wf = true ∧ (Instr.synthZero 15).wf = true ∧ Instr.quant.wf = true := by decide +kernel

/-- StepRunsDecodedCommand, EncodeInvertsDecode. -/
theorem witness_pending_command : (short.withFetchWord 32 0x13).nextTurn = .engine ∧
    (short.withFetchWord 32 0x13).pending = some 0x13 ∧ decodeWord 0x13 = .ok .synthTri := by decide +kernel

/-- IllegalWordRaisesIllegalCmd: each of the three reasons at a boundary. -/
theorem witness_illegal_words : (State.reset.withFetchWord 32 6).nextTurn = .engine ∧
    (State.reset.withFetchWord 32 6).pending = some 6 ∧ decodeWord 6 = .error .reservedOp ∧
    decodeWord 15 = .error .reservedOp ∧ decodeWord 0x100 = .error .reservedBits ∧ decodeWord 0x12 = .error .kindNotZero := by decide +kernel

/-- IdleEngineTurnChangesNothing: with and without an engine turn on the schedule. -/
theorem witness_idle : State.reset.nextTurn = .engine ∧ State.reset.pending = none ∧
    (withTurns State.reset [.engine]).nextTurn = .engine := by decide +kernel

/-- ResetEventRestoresResetState. -/
theorem witness_reset_turn : (withTurns { short with pending := some 3 } [.reset]).nextTurn = .reset := by decide +kernel

/-- ResetSatisfiesStateInvariant and every statement on legal parameters: both ends of the capacity. -/
theorem witness_legal : Config.Params.Legal { maxSamples := 2205, base := 4 } ∧ Config.defaultParams.Legal :=
  ⟨⟨by decide +kernel, by decide +kernel, by decide +kernel⟩, ⟨by decide +kernel, by decide +kernel, by decide +kernel⟩⟩

/-- A quantized block that meets the invariant. -/
def quantizedShort : State := { State.reset with
  phase := .quantized, peak := F64.one, mem := { sig := [F64.one, 0xBFE0000000000000], pcm := [0x7FFF, 0xC000] } }

/-- StepKeepsStateInvariant: a quantized block whose pending NORM has the next turn. -/
theorem witness_invariant : Inv (quantizedShort.withFetchWord 32 4) ∧
    after (step (quantizedShort.withFetchWord 32 4)) (fun t => t.phase) = some .normalized :=
  ⟨{ legal := witness_legal.2, lenFits := by decide +kernel, pcmLen := by decide +kernel, finite := List.all_eq_true.1 (by decide +kernel),
     bounded := fun _ => List.all_eq_true.1 (by decide +kernel), quantized := fun _ => by decide +kernel, noCode := by decide +kernel,
     pcmRange := fun v hv => of_decide_eq_true (List.all_eq_true.1
       (by decide +kernel : quantizedShort.mem.pcm.all (fun v => decide (-32767 ≤ v.toInt ∧ v.toInt ≤ 32767)) = true) v hv), assemblingNoPcm := by decide +kernel, peakSample := fun _ _ => ⟨F64.one, by decide +kernel, .inl rfl⟩ },
   by decide +kernel⟩

/-- The SYNTH statements: four samples. -/
theorem witness_synthReady : SynthReady short 4 :=
  { phase := rfl, args := ⟨by decide +kernel, by decide +kernel, by decide +kernel, by decide +kernel⟩, finiteCount := by decide +kernel,
    count := by decide +kernel, fits := by decide +kernel }

/-- The SYNTH statements at the lower end: no sample. -/
theorem witness_synthReady_zero : SynthReady { short with durHi := 0, durLo := 0 } 0 :=
  { phase := rfl, args := ⟨by decide +kernel, by decide +kernel, by decide +kernel, by decide +kernel⟩, finiteCount := by decide +kernel,
    count := by decide +kernel, fits := by decide +kernel }

/-- SynthSinAppendsScaledSine, SynthSqrAppendsScaledSign: the phase arguments of the four samples are finite. -/
theorem witness_phase_finite : ∀ n < 4, F64.isFinite (F64.mul (F64.mul twoPi short.freq)
    (F64.mul (F64.ofNat n) (F64.div short.dur (F64.ofNat 4)))) = true := by decide +kernel

/-- SynthTriAppendsScaledTriangle: the four scaled samples are finite (`w` being the triangle of `p`). -/
theorem witness_triangle_finite : ∀ n < 4, F64.isFinite (F64.mul (tri (F64.mul short.freq
    (F64.mul (F64.ofNat n) (F64.div short.dur (F64.ofNat 4))))) short.amp) = true := by decide +kernel

/-- SynthOutsideAssemblingRaisesSequence, in both other phases. -/
theorem witness_not_assembling : synthKind .synthSin = some 0 ∧ (normalizedWith []).phase ≠ .assembling ∧
    quantizedShort.phase ≠ .assembling := by decide +kernel

/-- SynthChecksArguments: one state for each bad argument, and a good one. -/
theorem witness_arguments : synthKind (.synthZero 3) = some 3 ∧ short.phase = .assembling ∧
    F64.isFinite ({ short with freqHi := 0x7FF80000 } : State).freq = false ∧
    F64.isFinite ({ short with ampHi := 0x7FF00000 } : State).amp = false ∧
    F64.isFinite ({ short with durHi := 0xFFF00000, durLo := 0 } : State).dur = false ∧
    F64.lt ({ short with durHi := 0xBFF00000 } : State).dur F64.zero = true ∧
    short.err = false ∧ short.errCode = .noError := by decide +kernel

/-- SynthBeyondCapacityRaisesCapacity, both clauses: an infinite count, and one sample too many. -/
theorem witness_capacity :
    GoodArgs short.freq short.amp 0x7FEFFFFFFFFFFFFF ∧ F64.isFinite (F64.mul kRate 0x7FEFFFFFFFFFFFFF) = false ∧
    GoodArgs short.freq short.amp short.dur ∧ ((3 : Nat) : Int) - short.len < F64.roundAway (F64.mul kRate short.dur) :=
  ⟨⟨by decide +kernel, by decide +kernel, by decide +kernel, by decide +kernel⟩, by decide +kernel, ⟨by decide +kernel, by decide +kernel, by decide +kernel, by decide +kernel⟩,
    by decide +kernel⟩

/-- The block of V-S11. -/
def overflowing : State := { short with freqHi := 0x7FE1CCF3, freqLo := 0x85EBC8A0 }

/-- SynthNonFiniteSampleRaisesNumeric: the first sample of V-S11 is a NaN. -/
theorem witness_numeric : SynthReady overflowing 4 ∧ synthKind .synthSin = some 0 ∧
    F64.isFinite (F64.mul (wave 0 overflowing.freq
      (F64.mul (F64.ofNat 0) (F64.div overflowing.dur (F64.ofNat 4)))) overflowing.amp) = false :=
  ⟨{ phase := rfl, args := ⟨by decide +kernel, by decide +kernel, by decide +kernel, by decide +kernel⟩, finiteCount := by decide +kernel,
     count := by decide +kernel, fits := by decide +kernel }, rfl, by decide +kernel⟩

/-- TriangleStaysInRange: both ends of the range of phases. -/
theorem witness_triangle_phase : F64.isFinite 0x432FFFFFFFFFFFFF = true ∧
    F64.lt (F64.abs 0x432FFFFFFFFFFFFF) 0x4330000000000000 = true ∧ F64.isFinite 0x8000000000000000 = true ∧
    F64.lt (F64.abs 0x8000000000000000) 0x4330000000000000 = true := by decide +kernel

/-- NormFollowsPseudocode, NormBoundsEverySample, NormIsIdempotent: a loud, a silent and an empty signal. -/
theorem witness_finite_signals : (∀ x ∈ ([0x3FE0000000000000, 0xBFD0000000000000] : List F64), F64.isFinite x = true) ∧
    (∀ x ∈ ([0, 0x8000000000000000] : List F64), F64.isFinite x = true) ∧
    (∀ x ∈ ([] : List F64), F64.isFinite x = true) :=
  ⟨List.all_eq_true.1 (by decide +kernel), List.all_eq_true.1 (by decide +kernel), by simp⟩

/-- DivisionByPeakStaysWithinOne: a sample at the peak, and a zero sample. -/
theorem witness_peak : F64.isFinite 0x3FE0000000000000 = true ∧ F64.lt F64.zero 0x3FE0000000000000 = true ∧
    F64.le (F64.abs 0xBFE0000000000000) 0x3FE0000000000000 = true ∧ F64.abs 0xBFE0000000000000 = 0x3FE0000000000000 ∧
    F64.le (F64.abs 0x8000000000000000) 0x3FE0000000000000 = true ∧ F64.isZero 0x8000000000000000 = true := by decide +kernel

/-- QuantFollowsPseudocode, QuantizedValuesStayInRange: both clauses, and the ends of the range of samples. -/
theorem witness_quant : short.phase = .assembling ∧ quantizedShort.phase ≠ .assembling ∧
    (∀ x ∈ quantizedShort.mem.sig, withinOne x = true) ∧ withinOne F64.one = true ∧ withinOne F64.negOne = true :=
  ⟨rfl, by decide +kernel, List.all_eq_true.1 (by decide +kernel), by decide +kernel, by decide +kernel⟩

/-- ErrorsArePrecise: a QUANT in ASSEMBLING raises, with ERR 0 and with ERR already 1; a NORM does not raise. -/
theorem witness_raise :
    after (exec .quant { short with err := false, errCode := .noError }) (fun t => (t.err, t.errCode)) = some (true, .sequence) ∧
    after (exec .quant { short with err := true, errCode := .busyWrite }) (fun t => (t.err, t.errCode)) =
      some (true, .busyWrite) ∧
    after (exec .norm { short with err := false, errCode := .noError }) (fun t => t.err) = some false := by decide +kernel

/-- ErrorIsStickyAndFirstWins: a step of each clause. -/
theorem witness_sticky :
    after (step (State.withFetchWord { short with err := true, errCode := .badArg } 32 2)) (fun t => t.errCode) = some .noError ∧
    after (step (State.withFetchWord { short with err := true, errCode := .badArg } 32 5)) (fun t => t.errCode) = some .badArg := by
  decide +kernel

/-- CommandWriteIssues: the three clauses. -/
theorem witness_command_write : (withTurns short [.access (.write .bits32 0 3)]).nextTurn = .access (.write .bits32 short.params.base 3) ∧
    ({ short with pending := some 0 } : State).pending ≠ none ∧ ({ short with err := true } : State).err = true ∧
    (3 : Word) ≠ 0x00000002 := by decide +kernel

/-- BusyArgumentWriteIsDropped, IdleArgumentWriteStoresHalf, SigIdxIsAlwaysWritable: the first and the last offset. -/
theorem witness_argument_write : (0x008 : Nat) ∈ [0x008, 0x00C, 0x010, 0x014, 0x018, 0x01C] ∧
    (withTurns short [.access (.write .bits32 0x01C 3)]).nextTurn = .access (.write .bits32 (short.params.base + 0x01C) 3) ∧
    (withTurns short [.access (.write .bits32 0x030 3)]).nextTurn = .access (.write .bits32 (short.params.base + 0x030) 3) ∧
    short.pending = none := by decide +kernel

/-- The statements on mapped offsets: both ends of the register table and of the PCM window. -/
theorem witness_mapped : MappedOffset 2205 0x000 ∧ MappedOffset 2205 0x03C ∧ MappedOffset 2205 0x1000 ∧
    MappedOffset 2205 (0x1000 + 4 * 1102) := by
  unfold MappedOffset; decide +kernel

/-- OtherAccessesGetBusError: past the register table, past the window, misaligned, the last 32-bit offset, narrow. -/
theorem witness_unmapped : ¬ MappedOffset 2205 0x040 ∧ ¬ MappedOffset 2205 (0x1000 + 4 * 1103) ∧ ¬ MappedOffset 2205 0x002 ∧
    ¬ MappedOffset 2205 0xFFFFFFFC ∧ (0xFFFFFFFC : Nat) < 2 ^ 32 ∧ Width.bits16 ≠ .bits32 := by
  unfold MappedOffset; decide +kernel

/-- AddressesOutsideOffsetRangeGetBusError: the last address below BASE, and the first one 2^32 above it. -/
theorem witness_outside_offsets :
    let s : State := { State.resetWith { maxSamples := 2205, base := 4 } with schedule := [.access (.read .bits32 3)] }
    s.nextTurn = .access (.read .bits32 3) ∧ 3 < s.params.base ∧ s.params.base + 2 ^ 32 ≤ 4294967300 ∧
    ({ s with schedule := [.access (.write .bits32 4294967300 0)] } : State).nextTurn =
      .access (.write .bits32 4294967300 0) := by decide +kernel

/-- ReadOnlyWritesAreIgnored, IdleReadsRepeat, BusyReadsAreFreeOrExact, ResultRegistersReadExactlyWhenIdle: turns at the offsets. -/
theorem witness_reads : (withTurns short [.access (.read .bits32 0x020), .access (.read .bits32 0x020)]).schedule =
    [.access (.read .bits32 (short.params.base + 0x020)), .access (.read .bits32 (short.params.base + 0x020))] ∧
    (withTurns short [.access (.write .bits32 0x1000 1)]).nextTurn = .access (.write .bits32 (short.params.base + 0x1000) 1) ∧
    ({ short with pending := some 3 } : State).pending ≠ none ∧ short.pending = none := by decide +kernel

/-- BusyReadsAreFreeOrExact, the exact clause, and BytesAreLittleEndian: the first and the last register. -/
theorem witness_exact_reads : (withTurns short [.access (.read .bits32 0x000)]).nextTurn =
      .access (.read .bits32 (short.params.base + 0x000)) ∧
    (withTurns { short with pending := some 3 } [.access (.read .bits32 0x03C)]).nextTurn =
      .access (.read .bits32 (short.params.base + 0x03C)) ∧
    regAt 0x000 = some .cmd ∧ regAt 0x03C = some .capacity := by decide +kernel

/-- SigDataReadsSelectedCell: the last cell, and the first index beyond. -/
theorem witness_sig_data : ({ quantizedShort with sigIdx := 1 } : State).sigIdx.toNat < quantizedShort.mem.sig.length ∧
    quantizedShort.mem.sig.length ≤ ({ quantizedShort with sigIdx := 2 } : State).sigIdx.toNat ∧
    quantizedShort.mem.sig[1]? = some 0xBFE0000000000000 ∧ quantizedShort.pending = none := by decide +kernel

/-- PcmWindowHoldsSamplePairs, BytesAreLittleEndian: a word of two samples, and the first word beyond them. -/
theorem witness_window : quantizedShort.mem.pcm[0]? = some 0x7FFF ∧ quantizedShort.mem.pcm[1]? = some 0xC000 ∧
    quantizedShort.mem.pcm.length ≤ 2 * 1 ∧ 1 < (quantizedShort.params.maxSamples + 1) / 2 ∧
    (withTurns quantizedShort [.access (.read .bits32 0x1000)]).nextTurn =
      .access (.read .bits32 (quantizedShort.params.base + 0x1000 + 4 * 0)) := by decide +kernel

/-- PhaseHasListedWriters, LenHasListedWriters: a step that changes PHASE, one that lengthens the signal. -/
theorem witness_writers : after (step (quantizedShort.withFetchWord 32 4)) (fun t => t.phase) = some .normalized ∧
    after (step (short.withFetchWord 32 0x13)) State.len = some 4 := by decide +kernel

/-- ProductIsCorrectlyRounded, SumIsCorrectlyRounded, QuotientIsCorrectlyRounded, IntegerConversionsAreExact,
ComparisonsFollowValues, SinHasListedProperties: the largest finite value, the smallest, a zero, and a NaN. -/
theorem witness_finite_values : F64.isFinite 0x7FEFFFFFFFFFFFFF = true ∧ F64.isFinite 1 = true ∧
    F64.isZero 1 = false ∧ F64.isZero 0x8000000000000000 = true ∧ F64.isNaN F64.nan = true ∧
    F64.isFinite 0xFFF0000000000000 = false := by decide +kernel

/-- SinHasSignOfRealSine: the last value below pi, and the end of the range. -/
theorem witness_sine_range : F64.isFinite 0x400921FB54442D18 = true ∧ F64.isZero 0x400921FB54442D18 = false ∧
    |F64.toRat 0x400921FB54442D18| ≤ 6 ∧ |F64.toRat 0xC018000000000000| ≤ 6 := by decide +kernel

/-- SumIsCorrectlyRounded: a sum and a difference that overflow, an exact zero sum and an exact zero difference. -/
theorem witness_sums : F64.toRat 0xFFEFFFFFFFFFFFFF + F64.toRat 0xFFEFFFFFFFFFFFFF < 0 ∧
    F64.toRat 0xFFEFFFFFFFFFFFFF - F64.toRat 0x7FEFFFFFFFFFFFFF < 0 ∧ F64.toRat 0x8000000000000000 + F64.toRat 0x8000000000000000 = 0 ∧
    F64.toRat 0x8000000000000000 - F64.toRat 0 = 0 := by decide +kernel

/-- ArithmeticOnSpecialValues: both infinities, both zeros, a NaN and a finite nonzero value. -/
theorem witness_special_values : F64.isInf 0x7FF0000000000000 = true ∧ F64.isInf 0xFFF0000000000000 = true ∧
    F64.isNaN 0x7FF0000000000000 = false ∧ F64.isZero 0x7FF0000000000000 = false ∧ F64.isNaN 0x7FF0000000000001 = true ∧
    F64.isZero 0 = true ∧ F64.isZero 0x8000000000000000 = true ∧ F64.isFinite 1 = true ∧ F64.isZero 1 = false ∧
    F64.isNaN 1 = false := by decide +kernel

/-- SinSignFollowsMultiplesOfPi: -7.0, two whole multiples of pi. -/
theorem witness_multiples_of_pi : F64.isFinite 0xC01C000000000000 = true ∧ F64.isZero 0xC01C000000000000 = false ∧
    ⌊|((F64.toRat 0xC01C000000000000 : ℚ) : ℝ)| / Real.pi⌋ =
      ((F64.units 0xC01C000000000000 * 2 ^ 176 / piScaled : Nat) : Int) := by
  have hv : F64.toRat 0xC01C000000000000 = -7 := by decide +kernel
  have hn : F64.units 0xC01C000000000000 * 2 ^ 176 / piScaled = 2 := by decide +kernel
  refine ⟨by decide +kernel, by decide +kernel, ?_⟩
  have h1 := Real.pi_gt_three
  have h2 := Real.pi_lt_d2
  have h7 : |(((-7 : ℚ)) : ℝ)| = 7 := by norm_num
  rw [hv, hn, h7, Int.floor_eq_iff, le_div_iff₀ Real.pi_pos, div_lt_iff₀ Real.pi_pos]
  constructor <;> push_cast <;> linarith

end Sys2Proof.Tests
end

/-! The fields of the STATUS word, and what the registers and the window read after reset (10_state.md R32 to R51). -/

namespace Sys2Proof.Machine

open Sys2Proof

/-! ### The fields of the STATUS word (10_state.md R32) -/

/-- Every bit of the STATUS word, from bit 0 up: the five fields stand side by side, and the bits above them are 0. -/
theorem status_getLsbD (s : State) (i : Nat) :
    s.status.getLsbD i =
      if i = 0 then s.busy
      else if i < 3 then (phaseBits s.phase).getLsbD (i - 1)
      else if i = 3 then s.err
      else if i < 8 then (errCodeBits s.errCode).getLsbD (i - 4)
      else decide (i = 8) && s.silent := by
  simp only [State.status, BitVec.getLsbD_append]
  grind

/-- STATUS.BUSY is bit 0 (10_state.md R33). -/
theorem status_busy (s : State) : s.status.getLsbD 0 = s.busy := status_getLsbD s 0

/-- STATUS.PHASE is bits 2:1 (10_state.md R34). -/
theorem status_phase (s : State) : s.status.extractLsb' 1 2 = phaseBits s.phase := by
  ext i hi
  have hlt : 1 + i < 3 := by omega
  simp [status_getLsbD, hlt, hi]

/-- STATUS.ERR is bit 3 (10_state.md R32). -/
theorem status_err (s : State) : s.status.getLsbD 3 = s.err := status_getLsbD s 3

/-- STATUS.ERRCODE is bits 7:4 (10_state.md R32). -/
theorem status_errCode (s : State) : s.status.extractLsb' 4 4 = errCodeBits s.errCode := by
  ext i hi
  have hge : ¬ 4 + i < 3 ∧ 4 + i ≠ 3 := by omega
  have hlt : 4 + i < 8 := by omega
  simp [status_getLsbD, hge, hlt, hi]

/-- STATUS.SILENT is bit 8 (10_state.md R32). -/
theorem status_silent (s : State) : s.status.getLsbD 8 = s.silent := status_getLsbD s 8

/-- The reserved bits 31:9 of STATUS read 0 (10_state.md R38). -/
theorem status_reserved (s : State) : s.status.extractLsb' 9 23 = 0 := by
  ext i hi
  have hge : ¬ 9 + i < 3 ∧ 9 + i ≠ 3 ∧ ¬ 9 + i < 8 ∧ 9 + i ≠ 8 := by omega
  simp [status_getLsbD, hge]

/-- BUSY is 1 exactly when PENDING holds a word (10_state.md R33, R50). -/
theorem busy_iff_pending_ne_none (s : State) : s.busy = true ↔ s.pending ≠ none :=
  Option.isSome_iff_ne_none

/-- Settles O43: each field of the STATUS word is read from the one statement of its bits. -/
theorem statusWordHasListedFields : Obligations.StatusWordHasListedFields := by
  intro s
  have hbusy : s.status.getLsbD 0 = true ↔ s.pending ≠ none := by
    rw [status_busy, busy_iff_pending_ne_none]
  exact ⟨hbusy, status_phase s, status_err s, status_errCode s, status_silent s, status_reserved s⟩

/-! ### What reads after reset (10_state.md R51) -/

@[simp] theorem busy_resetWith (p : Config.Params) : (State.resetWith p).busy = false := rfl
@[simp] theorem len_resetWith (p : Config.Params) : (State.resetWith p).len = 0 := rfl
@[simp] theorem pcmLen_resetWith (p : Config.Params) : (State.resetWith p).pcmLen = 0 := rfl
@[simp] theorem status_resetWith (p : Config.Params) : (State.resetWith p).status = 0 := by
  simp [State.status, phaseBits, errCodeBits]
@[simp] theorem freq_resetWith (p : Config.Params) : (State.resetWith p).freq = F64.zero := by
  simp [State.freq, pair, F64.zero]
@[simp] theorem amp_resetWith (p : Config.Params) : (State.resetWith p).amp = F64.zero := by
  simp [State.amp, pair, F64.zero]
@[simp] theorem dur_resetWith (p : Config.Params) : (State.resetWith p).dur = 0x3FA999999999999A := by
  rw [State.dur, resetWith_durHi, resetWith_durLo]
  decide

/-- With no defined signal cell, SIG_DATA reads 0 at every SIG_IDX (10_state.md R46). -/
theorem sigData_eq_zero_of_sig_nil {s : State} (h : s.mem.sig = []) : s.sigData = 0 := by
  simp [State.sigData, h]

/-- With no defined PCM sample, every sample reads 0 (20_memory.md R62). -/
theorem pcmAt_eq_zero_of_pcm_nil {s : State} (h : s.mem.pcm = []) (i : Nat) : s.pcmAt i = 0 := by
  simp [State.pcmAt, h]

/-- With no defined PCM sample, every word of the window reads 0 (20_memory.md R62). -/
theorem readTarget_window_eq_zero_of_pcm_nil {s : State} (h : s.mem.pcm = []) (k : Nat) :
    s.readTarget (.window k) = 0 := by
  simp [State.readTarget, pcmAt_eq_zero_of_pcm_nil h]

/-- Settles O9: the stored fields are reset's own, STATUS and the register pairs are made of them, and the buffers are empty. -/
theorem resetStateHoldsListedValues : Obligations.ResetStateHoldsListedValues := by
  intro p s
  have hlen : s.readReg .len = 0 := congrArg (BitVec.ofNat 32) (len_resetWith p)
  have hpcmLen : s.readReg .pcmLen = 0 := congrArg (BitVec.ofNat 32) (pcmLen_resetWith p)
  have hcapacity : s.readReg .capacity = BitVec.ofNat 32 p.maxSamples := rfl
  have hsig : s.mem.sig = [] := by simp [s]
  have hpcm : s.mem.pcm = [] := by simp [s]
  exact ⟨status_resetWith p, busy_resetWith p, resetWith_phase p, resetWith_err p, resetWith_errCode p, resetWith_silent p,
    freq_resetWith p, amp_resetWith p, dur_resetWith p, hlen, hpcmLen, resetWith_peak p, resetWith_sigIdx p,
    resetWith_pending p, hcapacity, sigData_eq_zero_of_sig_nil hsig, readTarget_window_eq_zero_of_pcm_nil hpcm⟩

end Sys2Proof.Machine

/-! The decoder reads every command back from its word (30_encoding.md R81, R85, R87). -/

namespace Sys2Proof

@[simp] theorem opField_commandWord (kind op : BitVec 4) : opField (commandWord kind op) = op :=
  BitVec.extractLsb'_append_eq_right

@[simp] theorem kindField_commandWord (kind op : BitVec 4) : kindField (commandWord kind op) = kind :=
  (BitVec.extractLsb'_append_eq_of_le (xlo := op) le_rfl).trans BitVec.extractLsb'_append_eq_right

@[simp] theorem rsvdField_commandWord (kind op : BitVec 4) : rsvdField (commandWord kind op) = 0 :=
  (BitVec.extractLsb'_append_eq_of_le (xlo := op) (by decide)).trans BitVec.extractLsb'_append_eq_left

/-- With OP = 3 every kind is legal (30_encoding.md R83). -/
theorem decodeWord_commandWord_synth (kind : BitVec 4) :
    decodeWord (commandWord kind 3) = .ok (decodeSynth kind) := by
  simp [decodeWord_of_rsvd]

/-- With KIND = 0 and OP other than 3 the operation alone decides (30_encoding.md R82). -/
theorem decodeWord_commandWord_op {op : BitVec 4} (h : op ≠ 3) : decodeWord (commandWord 0 op) = decodeOp op := by
  rw [decodeWord_of_rsvd (rsvdField_commandWord 0 op), opField_commandWord, kindField_commandWord, if_neg h,
    if_neg (not_not_intro rfl)]

/-- The unknown kinds 3..15 (30_encoding.md R83). -/
theorem decodeSynth_of_three_le {k : BitVec 4} (h : 3 ≤ k.toNat) : decodeSynth k = .synthZero k := by
  unfold decodeSynth
  split
  case h_4 => rfl
  all_goals omega

/-- The decoder inverts the encoder on the word of every well-formed command. -/
theorem decodeWord_encode {i : Instr} (h : i.wf = true) : decodeWord (encode i) = .ok i := by
  cases i with
  | nop => exact decodeWord_commandWord_op (by decide)
  | clear => exact decodeWord_commandWord_op (by decide)
  | clrerr => exact decodeWord_commandWord_op (by decide)
  | synthSin => exact decodeWord_commandWord_synth 0
  | synthTri => exact decodeWord_commandWord_synth 1
  | synthSqr => exact decodeWord_commandWord_synth 2
  | synthZero k =>
    have hk : 3 ≤ k.toNat := of_decide_eq_true h
    rw [encode, decodeWord_commandWord_synth, decodeSynth_of_three_le hk]
  | norm => exact decodeWord_commandWord_op (by decide)
  | quant => exact decodeWord_commandWord_op (by decide)

/-- The table writes the word of `SYNTH.ZERO k` as OP = 3 with `k` shifted into KIND (30_encoding.md R87). -/
theorem encode_synthZero_eq_or (k : BitVec 4) : encode (.synthZero k) = 0x00000003 ||| (k.setWidth 32 <<< 4) := by
  revert k
  decide

/-- Settles O4: each word of the table is the word of its command, and the decoder reads every well-formed command back. -/
theorem encodingTableWordsDecode : Obligations.EncodingTableWordsDecode := by
  have hzero (k : BitVec 4) (hk : 3 ≤ k.toNat) :
      decodeWord (0x00000003 ||| (k.setWidth 32 <<< 4)) = .ok (.synthZero k) := by
    rw [← encode_synthZero_eq_or]
    exact decodeWord_encode (decide_eq_true hk)
  exact ⟨decodeWord_encode (i := .nop) rfl, decodeWord_encode (i := .clear) rfl, decodeWord_encode (i := .clrerr) rfl,
    decodeWord_encode (i := .synthSin) rfl, decodeWord_encode (i := .synthTri) rfl, decodeWord_encode (i := .synthSqr) rfl,
    hzero, decodeWord_encode (i := .norm) rfl, decodeWord_encode (i := .quant) rfl⟩

end Sys2Proof

/-! What a `SYNTH` raises before its samples: SEQUENCE, BAD_ARG and CAPACITY (41_synthesizer.md R101 to R103, R113). -/

namespace Sys2Proof.Machine

open Sys2Proof

/-- Every `SYNTH` runs the one pseudocode with its own generator (41_synthesizer.md R115 to R118). -/
theorem exec_of_synthKind {i : Instr} {k : BitVec 4} (h : synthKind i = some k) (s : State) :
    exec i s = runCommand (synthBody (wave k)) s := by
  cases i with
  | synthSin | synthTri | synthSqr | synthZero k' => cases h; rfl
  | nop | clear | clrerr | norm | quant => cases h

/-- A `SYNTH` whose pseudocode raises performs the error entry and nothing else (00_scope.md R14). -/
theorem exec_of_synthBody_error {i : Instr} {k : BitVec 4} {s : State} {c : ErrCode} (hi : synthKind i = some k)
    (hb : synthBody (wave k) s = .error c) : exec i s = .next (s.errorEntry c) := by
  rw [exec_of_synthKind hi, runCommand_eq, hb, settle_error]

/-- The checks of R101 pass exactly on the good arguments. -/
theorem argsOk_iff_goodArgs {f a d : F64} : argsOk f a d = true ↔ GoodArgs f a d := by
  constructor
  · intro h
    simp only [argsOk, Bool.and_eq_true, Bool.not_eq_true'] at h
    obtain ⟨⟨⟨hf, ha⟩, hd⟩, hneg⟩ := h
    exact ⟨hf, ha, hd, hneg⟩
  · rintro ⟨hf, ha, hd, hneg⟩
    simp [argsOk, hf, ha, hd, hneg]

/-- The phase is checked first (41_synthesizer.md R113). -/
theorem synthBody_of_phase_ne {gen : F64 → F64 → F64} {s : State} (hp : s.phase ≠ .assembling) :
    synthBody gen s = .error .sequence := by
  simp [synthBody, hp]

/-- The arguments are checked second (41_synthesizer.md R101). -/
theorem synthBody_of_not_goodArgs {gen : F64 → F64 → F64} {s : State} (hp : s.phase = .assembling)
    (ha : ¬ GoodArgs s.freq s.amp s.dur) : synthBody gen s = .error .badArg := by
  rw [← argsOk_iff_goodArgs] at ha
  simp [synthBody, hp, ha]

/-- An infinite sample count does not fit (41_synthesizer.md R102, R103). -/
theorem synthBody_of_sampleCount_none {gen : F64 → F64 → F64} {s : State} (hp : s.phase = .assembling)
    (ha : GoodArgs s.freq s.amp s.dur) (hc : sampleCount s.dur = none) : synthBody gen s = .error .capacity := by
  simp [synthBody, hp, argsOk_iff_goodArgs.2 ha, hc]

/-- A finite sample count goes on to the capacity check (41_synthesizer.md R102). -/
theorem synthBody_of_sampleCount_some {gen : F64 → F64 → F64} {s : State} {count : Nat} (hp : s.phase = .assembling)
    (ha : GoodArgs s.freq s.amp s.dur) (hc : sampleCount s.dur = some count) :
    synthBody gen s = appendChecked s count (segmentSamples gen s.freq s.amp s.dur count) := by
  simp [synthBody, hp, argsOk_iff_goodArgs.2 ha, hc]

/-- Once the phase and the arguments pass, only CAPACITY and NUMERIC are left to raise (41_synthesizer.md R103, R111). -/
theorem synthBody_cases_of_goodArgs (gen : F64 → F64 → F64) {s : State} (hp : s.phase = .assembling)
    (ha : GoodArgs s.freq s.amp s.dur) :
    synthBody gen s = .error .capacity ∨ synthBody gen s = .error .numeric ∨
      ∃ seg, synthBody gen s = .ok (s.appendSegment seg) := by
  cases hc : sampleCount s.dur with
  | none => exact .inl (synthBody_of_sampleCount_none hp ha hc)
  | some count =>
    rw [synthBody_of_sampleCount_some hp ha hc]
    rcases appendChecked_cases s count (segmentSamples gen s.freq s.amp s.dur count) with
      ⟨-, e⟩ | ⟨-, -, e⟩ | ⟨-, -, e⟩
    · exact .inl e
    · exact .inr (.inr ⟨_, e⟩)
    · exact .inr (.inl e)

/-- A sample count that is infinite or above the room left raises CAPACITY, and neither the samples nor their values matter
(41_synthesizer.md R103). -/
theorem synthBody_of_no_room {gen : F64 → F64 → F64} {s : State} (hp : s.phase = .assembling)
    (ha : GoodArgs s.freq s.amp s.dur)
    (hroom : F64.isFinite (F64.mul kRate s.dur) = false ∨
      (s.params.maxSamples : Int) - s.len < F64.roundAway (F64.mul kRate s.dur)) :
    synthBody gen s = .error .capacity := by
  by_cases hfin : F64.isFinite (F64.mul kRate s.dur) = true
  · have hcount : (s.params.maxSamples : Int) - s.len < F64.roundAway (F64.mul kRate s.dur) :=
      hroom.resolve_left (by simp [hfin])
    have hover : s.params.maxSamples < s.len + (F64.roundAway (F64.mul kRate s.dur)).toNat := by omega
    rw [synthBody_of_sampleCount_some hp ha (if_pos hfin), appendChecked, if_pos hover]
  · exact synthBody_of_sampleCount_none hp ha (if_neg hfin)

/-- Settles O21: the phase is checked before any argument is read. -/
theorem synthOutsideAssemblingRaisesSequence : Obligations.SynthOutsideAssemblingRaisesSequence :=
  fun _ _ _ hi hp => exec_of_synthBody_error hi (synthBody_of_phase_ne hp)

/-- Settles O22: each rejected argument makes the check of R101 fail, and past that check only other codes are raised. -/
theorem synthChecksArguments : Obligations.SynthChecksArguments := by
  intro i k s hi hp
  constructor
  · intro hbad
    have hnot : ¬ GoodArgs s.freq s.amp s.dur := by
      rintro ⟨hf, ha, hd, hneg⟩
      simp [hf, ha, hd, hneg] at hbad
    exact exec_of_synthBody_error hi (synthBody_of_not_goodArgs hp hnot)
  · intro hgood herr hcode
    rcases synthBody_cases_of_goodArgs (wave k) hp hgood with e | e | ⟨seg, e⟩
    · exact ⟨_, exec_of_synthBody_error hi e, by simp [herr]⟩
    · exact ⟨_, exec_of_synthBody_error hi e, by simp [herr]⟩
    · refine ⟨s.appendSegment seg, ?_, ?_⟩
      · rw [exec_of_synthKind hi, runCommand_eq, e, settle_ok]
      · simp [hcode]

/-- Settles O23: the capacity check comes before any sample is computed. -/
theorem synthBeyondCapacityRaisesCapacity : Obligations.SynthBeyondCapacityRaisesCapacity :=
  fun _ _ _ hi hp ha hroom => exec_of_synthBody_error hi (synthBody_of_no_room hp ha hroom)

end Sys2Proof.Machine

/-! Where a rounded result lies: rounding never crosses a value that a finite binary64 pattern has (00_scope.md R11). -/

namespace Sys2Proof.F64

/-! ### The magnitudes that finite patterns have -/

/-- A number of units that is the magnitude of a finite value: at most 53 significant bits, below 2^1024. -/
def FiniteMagnitude (n : Nat) : Prop := ∃ c e, c < 2 ^ 53 ∧ e ≤ 2045 ∧ n = c * 2 ^ e

/-- Every pattern is an exponent part and a significand of at most 53 bits, normalised unless the exponent part is 0. -/
theorem exists_exponent_significand (m : Nat) :
    ∃ c e, c < 2 ^ 53 ∧ (e = 0 ∨ 2 ^ 52 ≤ c) ∧ m = e * 2 ^ 52 + c := by
  by_cases h0 : m / 2 ^ 52 = 0
  · exact ⟨m, 0, by omega, .inl rfl, by omega⟩
  · exact ⟨m % 2 ^ 52 + 2 ^ 52, m / 2 ^ 52 - 1, by omega, .inr (by omega), by omega⟩

/-- The magnitude of a pattern given by its parts; a significand of 2^53 is the carry into the next exponent. -/
theorem unitsOfMag_exponent_significand {c e : Nat} (hc : c ≤ 2 ^ 53) (he : e = 0 ∨ 2 ^ 52 ≤ c) :
    unitsOfMag (e * 2 ^ 52 + c) = c * 2 ^ e := by
  rcases Nat.lt_or_ge c (2 ^ 52) with hlt | hge
  · obtain rfl : e = 0 := by omega
    have hdiv : (0 * 2 ^ 52 + c) / 2 ^ 52 = 0 := by omega
    rw [unitsOfMag, if_pos hdiv]
    ring
  · rcases Nat.lt_or_ge c (2 ^ 53) with hlt | hge'
    · have hdiv : (e * 2 ^ 52 + c) / 2 ^ 52 = e + 1 := by omega
      have hmod : (e * 2 ^ 52 + c) % 2 ^ 52 + 2 ^ 52 = c := by omega
      rw [unitsOfMag, hdiv, hmod, if_neg (Nat.succ_ne_zero e), Nat.add_sub_cancel]
    · have hdiv : (e * 2 ^ 52 + c) / 2 ^ 52 = e + 1 + 1 := by omega
      have hmod : (e * 2 ^ 52 + c) % 2 ^ 52 + 2 ^ 52 = 2 ^ 52 := by omega
      rw [unitsOfMag, hdiv, hmod, if_neg (Nat.succ_ne_zero _), Nat.add_sub_cancel, le_antisymm hc hge']
      ring

theorem unitsOfMag_infMag : unitsOfMag infMag = 2 ^ 53 * 2 ^ 2045 := by
  have hinf : infMag = 2045 * 2 ^ 52 + 2 ^ 53 := by decide
  rw [hinf, unitsOfMag_exponent_significand le_rfl (.inr (by decide))]

theorem FiniteMagnitude.lt_unitsOfMag_infMag {n : Nat} (h : FiniteMagnitude n) : n < unitsOfMag infMag := by
  obtain ⟨c, e, hc, he, rfl⟩ := h
  rw [unitsOfMag_infMag]
  generalize 2045 = E at he ⊢
  calc c * 2 ^ e < 2 ^ 53 * 2 ^ e := Nat.mul_lt_mul_of_pos_right hc (by positivity)
    _ ≤ 2 ^ 53 * 2 ^ E := Nat.mul_le_mul_left _ (Nat.pow_le_pow_right (by norm_num) he)

theorem unitsOfMag_infMag_lt : unitsOfMag infMag < 2 ^ 2 ^ 12 := by
  have hexp : 53 + 2045 < 2 ^ 12 := by norm_num
  rw [unitsOfMag_infMag]
  generalize 2045 = E at hexp ⊢
  rw [← pow_add]
  exact Nat.pow_lt_pow_right Nat.one_lt_two hexp

/-- Significands up to 2^53 itself; the exponent bound leaves room for the carry. -/
theorem finiteMagnitude_mul_two_pow {c e : Nat} (hc : c ≤ 2 ^ 53) (he : e ≤ 2044) : FiniteMagnitude (c * 2 ^ e) := by
  rcases Nat.lt_or_ge c (2 ^ 53) with hlt | hge
  · exact ⟨c, e, hlt, by omega, rfl⟩
  · exact ⟨2 ^ 52, e + 1, by norm_num, by omega, by rw [le_antisymm hc hge]; ring⟩

theorem finiteMagnitude_zero : FiniteMagnitude 0 := ⟨0, 0, by norm_num, by norm_num, rfl⟩

/-- The whole numbers up to 2^53 are values. -/
theorem finiteMagnitude_mul_unit {n : Nat} (hn : n ≤ 2 ^ 53) : FiniteMagnitude (n * unit) :=
  finiteMagnitude_mul_two_pow hn (by norm_num)

theorem finiteMagnitude_units {x : F64} (h : isFinite x = true) : FiniteMagnitude (units x) := by
  obtain ⟨c, e, hc, he, hm⟩ := exists_exponent_significand (mag x)
  have hinf : infMag = 2047 * 2 ^ 52 := by decide
  rw [isFinite_iff] at h
  refine ⟨c, e, hc, by omega, ?_⟩
  rw [units, hm, unitsOfMag_exponent_significand hc.le he]

theorem mag_lt_of_units_lt {x : F64} {m : Nat} (h : units x < unitsOfMag m) : mag x < m := by
  by_contra hge
  exact absurd (unitsOfMag_mono (Nat.le_of_not_lt hge)) (Nat.not_le.2 h)

theorem toInt_of_sign_false {x : F64} (h : sign x = false) : toInt x = (units x : Int) := by simp [toInt, h]

theorem toInt_of_sign_true {x : F64} (h : sign x = true) : toInt x = -(units x : Int) := by simp [toInt, h]

theorem isFinite_iff_units_lt (x : F64) : isFinite x = true ↔ units x < unitsOfMag infMag :=
  ⟨fun h => (finiteMagnitude_units h).lt_unitsOfMag_infMag, fun h => (isFinite_iff x).2 (mag_lt_of_units_lt h)⟩

theorem natAbs_toInt (x : F64) : (toInt x).natAbs = units x := by
  unfold toInt
  split <;> simp

/-! ### Rounding a quotient -/

theorem div_le_divNearestEven (num den : Nat) : num / den ≤ divNearestEven num den := by
  unfold divNearestEven
  split_ifs <;> omega

theorem le_divNearestEven_of_le {num den k : Nat} (hden : 0 < den) (h : k * den ≤ num) : k ≤ divNearestEven num den :=
  le_trans ((Nat.le_div_iff_mul_le hden).2 h) (div_le_divNearestEven num den)

/-- A quotient with excess bits has at least 53 others. -/
theorem two_pow_excessBits_le {n : Nat} (h : n < 2 ^ 2 ^ 13) (he : excessBits n ≠ 0) : 2 ^ (52 + excessBits n) ≤ n := by
  rw [excessBits, highBit_eq_log2 _ _ h] at he ⊢
  have hn : n ≠ 0 := by
    rintro rfl
    exact he (by decide)
  rw [Nat.add_sub_cancel' (by omega)]
  exact Nat.log2_self_le hn

/-- The rounded quotient keeps 53 bits when there are excess bits. -/
theorem two_pow_le_divNearestEven_excess {num den : Nat} (hden : 0 < den) (hbig : num / den < 2 ^ 2 ^ 13)
    (he : excessBits (num / den) ≠ 0) : 2 ^ 52 ≤ divNearestEven num (den * 2 ^ excessBits (num / den)) := by
  apply le_divNearestEven_of_le (by positivity)
  have h := (Nat.le_div_iff_mul_le hden).1 (two_pow_excessBits_le hbig he)
  calc 2 ^ 52 * (den * 2 ^ excessBits (num / den)) = 2 ^ (52 + excessBits (num / den)) * den := by rw [pow_add]; ring
    _ ≤ num := h

/-- The magnitude of the rounded quotient, before overflow: the excess bits are replaced by zeros. -/
theorem units_round {neg : Bool} {num den : Nat} (hden : 0 < den) (hbig : num / den < 2 ^ 2 ^ 13) :
    units (round neg num den) =
      min (divNearestEven num (den * 2 ^ excessBits (num / den)) * 2 ^ excessBits (num / den)) (unitsOfMag infMag) := by
  have hmono : Monotone unitsOfMag := fun _ _ => unitsOfMag_mono
  rw [units, mag_round, roundMag, hmono.map_min, unitsOfMag_exponent_significand (divNearestEven_excess_le hden hbig)
    (or_iff_not_imp_left.2 (two_pow_le_divNearestEven_excess hden hbig))]

/-- A quotient of at most a value rounds to at most that value. -/
theorem units_round_le {neg : Bool} {num den n : Nat} (hden : 0 < den) (hn : FiniteMagnitude n) (h : num ≤ n * den) :
    units (round neg num den) ≤ n := by
  have hq : num / den ≤ n := Nat.div_le_of_le_mul (by rwa [Nat.mul_comm])
  have hbig : num / den < 2 ^ 2 ^ 13 :=
    calc num / den ≤ n := hq
      _ < 2 ^ 2 ^ 12 := hn.lt_unitsOfMag_infMag.trans unitsOfMag_infMag_lt
      _ ≤ 2 ^ 2 ^ 13 := Nat.pow_le_pow_right (by norm_num) (by norm_num)
  obtain ⟨c, e, hc, -, rfl⟩ := hn
  rw [units_round hden hbig]
  refine le_trans (Nat.min_le_left _ _) ?_
  generalize hx : excessBits (num / den) = x
  have hxe : x ≤ e := by
    by_contra hlt
    have hge := two_pow_excessBits_le hbig (by omega)
    have hpow : 2 ^ (53 + e) ≤ 2 ^ (52 + excessBits (num / den)) := Nat.pow_le_pow_right (by norm_num) (by omega)
    have hlt : c * 2 ^ e < 2 ^ 53 * 2 ^ e := Nat.mul_lt_mul_of_pos_right hc (by positivity)
    rw [pow_add] at hpow
    omega
  obtain ⟨d, rfl⟩ := Nat.exists_eq_add_of_le hxe
  have hround : divNearestEven num (den * 2 ^ x) ≤ c * 2 ^ d := by
    apply divNearestEven_le_of_le (by positivity)
    calc num ≤ c * 2 ^ (x + d) * den := h
      _ = c * 2 ^ d * (den * 2 ^ x) := by rw [pow_add]; ring
  calc divNearestEven num (den * 2 ^ x) * 2 ^ x ≤ c * 2 ^ d * 2 ^ x := Nat.mul_le_mul_right _ hround
    _ = c * 2 ^ (x + d) := by rw [pow_add]; ring

theorem isFinite_round {neg : Bool} {num den n : Nat} (hden : 0 < den) (hn : FiniteMagnitude n) (h : num ≤ n * den) :
    isFinite (round neg num den) = true :=
  (isFinite_iff_units_lt _).2 (lt_of_le_of_lt (units_round_le hden hn h) hn.lt_unitsOfMag_infMag)

/-- A quotient of at least a value rounds to at least that value. -/
theorem le_units_round {neg : Bool} {num den n : Nat} (hden : 0 < den) (hn : FiniteMagnitude n)
    (hbig : num / den < 2 ^ 2 ^ 13) (h : n * den ≤ num) : n ≤ units (round neg num den) := by
  rw [units_round hden hbig]
  refine le_min ?_ hn.lt_unitsOfMag_infMag.le
  obtain ⟨c, e, hc, -, rfl⟩ := hn
  have hkept := two_pow_le_divNearestEven_excess hden hbig
  generalize excessBits (num / den) = x at hkept ⊢
  rcases Nat.lt_or_ge e x with hlt | hxe
  · calc c * 2 ^ e ≤ 2 ^ 53 * 2 ^ e := Nat.mul_le_mul_right _ hc.le
      _ = 2 ^ 52 * 2 ^ (e + 1) := by rw [pow_succ]; ring
      _ ≤ 2 ^ 52 * 2 ^ x := Nat.mul_le_mul_left _ (Nat.pow_le_pow_right (by norm_num) hlt)
      _ ≤ divNearestEven num (den * 2 ^ x) * 2 ^ x := Nat.mul_le_mul_right _ (hkept (by omega))
  · obtain ⟨d, rfl⟩ := Nat.exists_eq_add_of_le hxe
    have hround : c * 2 ^ d ≤ divNearestEven num (den * 2 ^ x) := by
      apply le_divNearestEven_of_le (by positivity)
      calc c * 2 ^ d * (den * 2 ^ x) = c * 2 ^ (x + d) * den := by rw [pow_add]; ring
        _ ≤ num := h
    calc c * 2 ^ (x + d) = c * 2 ^ d * 2 ^ x := by rw [pow_add]; ring
      _ ≤ divNearestEven num (den * 2 ^ x) * 2 ^ x := Nat.mul_le_mul_right _ hround

/-! ### Rounding a whole number of units -/

theorem toInt_roundInt_of_nonneg (z : Bool) {n : Int} (hn : 0 ≤ n) :
    toInt (roundInt z n) = (units (round false n.natAbs 1) : Int) := by
  unfold roundInt
  split
  · rename_i h
    subst h
    cases z <;> decide +kernel
  · rw [decide_eq_false (by omega), toInt, sign_round, if_neg Bool.false_ne_true]

theorem toInt_roundInt_of_neg (z : Bool) {n : Int} (hn : n < 0) :
    toInt (roundInt z n) = -(units (round false n.natAbs 1) : Int) := by
  rw [roundInt, if_neg hn.ne, decide_eq_true hn, toInt, sign_round, if_pos rfl, units, units, mag_round, mag_round]

/-- Rounding a whole number of units of at most a value gives at most that value, with their signs. -/
theorem toInt_roundInt_le (z : Bool) {n y : Int} (hy : FiniteMagnitude y.natAbs) (hbig : n.natAbs < 2 ^ 2 ^ 13)
    (h : n ≤ y) : toInt (roundInt z n) ≤ y := by
  rcases lt_or_ge n 0 with hn | hn
  · rw [toInt_roundInt_of_neg z hn]
    rcases lt_or_ge y 0 with hyneg | hypos
    · have := le_units_round (neg := false) (num := n.natAbs) one_pos hy (by rwa [Nat.div_one]) (by omega)
      omega
    · omega
  · rw [toInt_roundInt_of_nonneg z hn]
    have := units_round_le (neg := false) (num := n.natAbs) one_pos hy (by omega)
    omega

/-- Rounding a whole number of units of at least a value gives at least that value, with their signs. -/
theorem le_toInt_roundInt (z : Bool) {n y : Int} (hy : FiniteMagnitude y.natAbs) (hbig : n.natAbs < 2 ^ 2 ^ 13)
    (h : y ≤ n) : y ≤ toInt (roundInt z n) := by
  rcases lt_or_ge n 0 with hn | hn
  · rw [toInt_roundInt_of_neg z hn]
    have := units_round_le (neg := false) (num := n.natAbs) one_pos hy (by omega)
    omega
  · rw [toInt_roundInt_of_nonneg z hn]
    rcases lt_or_ge 0 y with hypos | hyneg
    · have := le_units_round (neg := false) (num := n.natAbs) one_pos hy (by rwa [Nat.div_one]) (by omega)
      omega
    · omega

/-- A value rounds to itself. -/
theorem toInt_roundInt_eq (z : Bool) {n : Int} (hn : FiniteMagnitude n.natAbs) : toInt (roundInt z n) = n := by
  have hbig : n.natAbs < 2 ^ 2 ^ 13 :=
    calc n.natAbs < 2 ^ 2 ^ 12 := hn.lt_unitsOfMag_infMag.trans unitsOfMag_infMag_lt
      _ ≤ 2 ^ 2 ^ 13 := Nat.pow_le_pow_right (by norm_num) (by norm_num)
  exact le_antisymm (toInt_roundInt_le z hn hbig le_rfl) (le_toInt_roundInt z hn hbig le_rfl)

theorem isFinite_roundInt (z : Bool) {n : Int} {y : Nat} (hy : FiniteMagnitude y) (h : n.natAbs ≤ y) :
    isFinite (roundInt z n) = true := by
  unfold roundInt
  split
  · cases z <;> decide
  · exact isFinite_round one_pos hy (by omega)

theorem units_roundInt_le (z : Bool) {n : Int} {y : Nat} (hy : FiniteMagnitude y) (h : n.natAbs ≤ y) :
    units (roundInt z n) ≤ y := by
  unfold roundInt
  split
  · rw [units, mag_ofMag z (by norm_num)]
    exact Nat.zero_le y
  · exact units_round_le one_pos hy (by omega)

/-- A whole number of units between -1.0 and 1.0 rounds to a value between them. -/
theorem mag_roundInt_le_oneMag (z : Bool) {n : Int} (h : n.natAbs ≤ unit) : mag (roundInt z n) ≤ oneMag := by
  unfold roundInt
  split
  · rw [mag_ofMag z (by norm_num)]
    exact Nat.zero_le _
  · rw [mag_round]
    exact roundMag_le_oneMag one_pos (by omega)

/-! ### The operations on finite values -/

theorem add_eq_roundInt {a b : F64} (ha : isFinite a = true) (hb : isFinite b = true) :
    add a b = roundInt (sign a && sign b) (toInt a + toInt b) := by
  simp [add, not_isNaN_of_isFinite ha, not_isNaN_of_isFinite hb, not_isInf_of_isFinite ha, not_isInf_of_isFinite hb]

/-- The exact sum of two finite values is within the numbers the rounding function covers. -/
theorem natAbs_toInt_add_lt {a b : F64} (ha : isFinite a = true) (hb : isFinite b = true) :
    (toInt a + toInt b).natAbs < 2 ^ 2 ^ 13 := by
  have hua := ((isFinite_iff_units_lt a).1 ha).trans unitsOfMag_infMag_lt
  have hub := ((isFinite_iff_units_lt b).1 hb).trans unitsOfMag_infMag_lt
  have hpow : 2 ^ (2 ^ 12 + 1) ≤ 2 ^ 2 ^ 13 := Nat.pow_le_pow_right (by norm_num) (by norm_num)
  calc (toInt a + toInt b).natAbs ≤ units a + units b := by
        rw [← natAbs_toInt, ← natAbs_toInt]
        exact Int.natAbs_add_le _ _
    _ < 2 ^ 2 ^ 12 + 2 ^ 2 ^ 12 := Nat.add_lt_add hua hub
    _ = 2 ^ (2 ^ 12 + 1) := by
        generalize 2 ^ 12 = k
        exact (Nat.two_pow_succ k).symm
    _ ≤ 2 ^ 2 ^ 13 := hpow

/-- A sum of at most a value rounds to at most that value. -/
theorem toInt_add_le {a b : F64} {y : Int} (ha : isFinite a = true) (hb : isFinite b = true)
    (hy : FiniteMagnitude y.natAbs) (h : toInt a + toInt b ≤ y) : toInt (add a b) ≤ y := by
  rw [add_eq_roundInt ha hb]
  exact toInt_roundInt_le _ hy (natAbs_toInt_add_lt ha hb) h

/-- A sum of at least a value rounds to at least that value. -/
theorem le_toInt_add {a b : F64} {y : Int} (ha : isFinite a = true) (hb : isFinite b = true)
    (hy : FiniteMagnitude y.natAbs) (h : y ≤ toInt a + toInt b) : y ≤ toInt (add a b) := by
  rw [add_eq_roundInt ha hb]
  exact le_toInt_roundInt _ hy (natAbs_toInt_add_lt ha hb) h

/-- A sum that is a value is exact. -/
theorem toInt_add_eq {a b : F64} (ha : isFinite a = true) (hb : isFinite b = true)
    (h : FiniteMagnitude (toInt a + toInt b).natAbs) : toInt (add a b) = toInt a + toInt b := by
  rw [add_eq_roundInt ha hb, toInt_roundInt_eq _ h]

@[simp] theorem units_abs (x : F64) : units (abs x) = units x := congrArg unitsOfMag (mag_abs x)

@[simp] theorem isFinite_neg (x : F64) : isFinite (neg x) = isFinite x := by simp [isFinite]

theorem sub_eq_roundInt {a b : F64} (ha : isFinite a = true) (hb : isFinite b = true) :
    sub a b = roundInt (sign a && !sign b) (toInt a - toInt b) := by
  rw [sub, add_eq_roundInt ha (by simpa using hb), toInt_neg, sign_neg, Int.sub_eq_add_neg]

theorem mul_eq_round {a b : F64} (ha : isFinite a = true) (hb : isFinite b = true) :
    mul a b = round (sign a != sign b) (units a * units b) unit := by
  simp [mul, not_isNaN_of_isFinite ha, not_isNaN_of_isFinite hb, not_isInf_of_isFinite ha, not_isInf_of_isFinite hb]

theorem unit_pos : 0 < unit := by exact_mod_cast unit_cast_pos

theorem units_two : units two = 2 * unit := by decide +kernel

/-- Doubling a value of magnitude at most `n` gives a finite value of magnitude at most `2 * n`. -/
theorem mul_two_bounds {x : F64} {n : Nat} (hx : isFinite x = true) (hn : FiniteMagnitude (2 * n)) (h : units x ≤ n) :
    isFinite (mul two x) = true ∧ units (mul two x) ≤ 2 * n := by
  have hnum : units two * units x ≤ 2 * n * unit := by
    rw [units_two]
    calc 2 * unit * units x = 2 * units x * unit := by ring
      _ ≤ 2 * n * unit := Nat.mul_le_mul_right _ (by omega)
  rw [mul_eq_round (by decide) hx]
  exact ⟨isFinite_round unit_pos hn hnum, units_round_le unit_pos hn hnum⟩

/-- The floor of a value at or above the whole number `k` and below `k + 1` is `k`. -/
theorem floor_of_bracket {u : F64} {k : Int} (hu : isFinite u = true) (hk : k.natAbs ≤ 2 ^ 53)
    (hle : k * unit ≤ toInt u) (hlt : toInt u < (k + 1) * unit) :
    isFinite (floor u) = true ∧ toInt (floor u) = k * unit := by
  have hpos : (0 : Int) < unit := by exact_mod_cast unit_pos
  have hdiv : toInt u / (unit : Int) = k := by
    rw [Int.ediv_eq_iff_of_pos hpos]
    exact ⟨hle, hlt.trans_eq (add_one_mul _ _)⟩
  have hval : FiniteMagnitude (k * (unit : Int)).natAbs := by
    rw [Int.natAbs_mul, Int.natAbs_natCast]
    exact finiteMagnitude_mul_unit hk
  rw [floor, if_pos hu, hdiv]
  exact ⟨isFinite_roundInt _ hval le_rfl, toInt_roundInt_eq _ hval⟩

/-- The values from -1.0 to 1.0 are those whose pattern below the sign is at most that of 1.0. -/
theorem between_negOne_one {x : F64} (h : mag x ≤ oneMag) : le negOne x = true ∧ le x one = true := by
  have hx : isNaN x = false := not_isNaN_of_isFinite ((isFinite_iff x).2 (lt_of_le_of_lt h (by decide)))
  have hkey : -(oneMag : Int) ≤ key x ∧ key x ≤ oneMag := by
    unfold key
    split <;> omega
  have hone : key one = oneMag := by decide
  have hneg : key negOne = -(oneMag : Int) := by decide
  have honeNaN : isNaN one = false := by decide
  have hnegNaN : isNaN negOne = false := by decide
  simp [le, hx, hone, hneg, honeNaN, hnegNaN, hkey]

end Sys2Proof.F64

/-! The range of the triangle generator (41_synthesizer.md R107): below 2^52 the phase is never further than a half from the
whole number it is reduced by, except by one rounding that `p - q` makes good. -/

namespace Sys2Proof.Machine

open Sys2Proof F64

/-- A half in units of 2^-1074. -/
def halfUnit : Nat := 2 ^ 1073

theorem unit_eq_two_mul_halfUnit : unit = 2 * halfUnit := by decide +kernel

theorem units_half : units half = halfUnit := by decide +kernel

theorem toInt_half : toInt half = (halfUnit : Int) := by decide +kernel

theorem finiteMagnitude_halfUnit : FiniteMagnitude halfUnit :=
  units_half ▸ finiteMagnitude_units (x := half) (by decide)

/-- The phases below 2^52. -/
theorem units_le_of_mag_lt {p : F64} (hlt : mag p < 0x4330000000000000) : units p ≤ 2 ^ 52 * unit := by
  have hbound : unitsOfMag 0x4330000000000000 = 2 ^ 52 * unit := by decide +kernel
  rw [← hbound]
  exact unitsOfMag_mono hlt.le

theorem isFinite_of_mag_lt {p : F64} (hlt : mag p < 0x4330000000000000) : isFinite p = true :=
  (isFinite_iff p).2 (hlt.trans (by decide))

theorem isFinite_add_half {p : F64} (hlt : mag p < 0x4330000000000000) : isFinite (add p half) = true := by
  have hfin := isFinite_of_mag_lt hlt
  have hmax := units_le_of_mag_lt hlt
  have habs := natAbs_toInt p
  have hunit := unit_eq_two_mul_halfUnit
  rw [add_eq_roundInt hfin (by decide), toInt_half]
  exact isFinite_roundInt _ (finiteMagnitude_mul_unit le_rfl) (by omega)

/-- The whole number `k` that `TRI` takes from the phase, `floor(p + 0.5)`, is at most a half away from it. -/
structure ReducesBy (p : F64) (k : Int) : Prop where
  small : k.natAbs ≤ 2 ^ 53
  le_sum : k * unit ≤ toInt (add p half)
  sum_lt : toInt (add p half) < (k + 1) * unit
  near : (toInt p - k * unit).natAbs ≤ halfUnit

/-- When `p + 0.5` is exact, its floor is the nearest whole number. -/
theorem exists_reducesBy_of_exact {p : F64} (hp : units p ≤ 2 ^ 52 * unit)
    (hsum : toInt (add p half) = toInt p + halfUnit) : ∃ k, ReducesBy p k := by
  have hU : (unit : Int) = 2 * halfUnit := by exact_mod_cast unit_eq_two_mul_halfUnit
  have hpos : (0 : Int) < unit := by exact_mod_cast unit_pos
  have hle := Int.ediv_mul_le (toInt p + halfUnit) hpos.ne'
  have hlt := Int.lt_ediv_add_one_mul_self (toInt p + halfUnit) hpos
  have habs := natAbs_toInt p
  generalize (toInt p + halfUnit) / (unit : Int) = k at hle hlt
  have hkle : k ≤ 2 ^ 53 := by
    refine le_of_mul_le_mul_right ?_ hpos
    omega
  have hlek : -2 ^ 53 ≤ k := by
    refine Int.le_of_lt_add_one (lt_of_mul_lt_mul_right ?_ hpos.le)
    omega
  rw [add_one_mul] at hlt
  exact ⟨k, by omega, by omega, by rw [add_one_mul]; omega, by omega⟩

/-- Two steps below a half there is still room: adding a half gives the value just below 1.0, exactly. -/
theorem units_below_half_add_half : units 0x3FDFFFFFFFFFFFFE + halfUnit = units 0x3FEFFFFFFFFFFFFF := by decide +kernel

theorem units_below_one_lt : units 0x3FEFFFFFFFFFFFFF < unit := by decide +kernel

/-- A phase below a half is at least two steps below it, or is the value just below a half. -/
theorem toInt_le_of_lt_half {p : F64} (hlt : mag p < mag half) (hne : p ≠ 0x3FDFFFFFFFFFFFFF) :
    toInt p ≤ (units 0x3FDFFFFFFFFFFFFE : Int) := by
  have hhalf : mag half = 0x3FE0000000000000 := by decide
  have hbelow : mag 0x3FDFFFFFFFFFFFFE = 0x3FDFFFFFFFFFFFFE := by decide
  unfold toInt
  split
  · omega
  · rename_i hs
    have hm : mag p ≠ 0x3FDFFFFFFFFFFFFF := fun hm => hne (ext_sign_mag ((Bool.eq_false_iff.2 hs).trans (by decide)) hm)
    have hle : units p ≤ units 0x3FDFFFFFFFFFFFFE := unitsOfMag_mono (by omega)
    omega

/-- A phase nearer to zero than a half is reduced by 0, except the value just below a half, whose `p + 0.5` rounds up to
1.0. -/
theorem reducesBy_zero {p : F64} (hlt : mag p < mag half) (hne : p ≠ 0x3FDFFFFFFFFFFFFF) : ReducesBy p 0 := by
  have hfin : isFinite p = true := (isFinite_iff p).2 (hlt.trans (by decide))
  have hunits : units p ≤ halfUnit := units_half ▸ unitsOfMag_mono hlt.le
  have habs := natAbs_toInt p
  have hsum : toInt p + toInt half ≤ (units 0x3FEFFFFFFFFFFFFF : Int) := by
    have := toInt_le_of_lt_half hlt hne
    rw [toInt_half, ← units_below_half_add_half]
    omega
  have hvalue : FiniteMagnitude (units 0x3FEFFFFFFFFFFFFF : Int).natAbs := by
    rw [Int.natAbs_natCast]
    exact finiteMagnitude_units (by decide)
  have hbelow := toInt_add_le hfin (by decide) hvalue hsum
  have habove : 0 ≤ toInt (add p half) := le_toInt_add hfin (by decide) finiteMagnitude_zero (by rw [toInt_half]; omega)
  have hone := units_below_one_lt
  exact ⟨by norm_num, by omega, by omega, by omega⟩

/-- A phase of a half or more up to 2^52, written on its own grid, has a magnitude whose grid also holds a half. -/
theorem exists_grid_of_half_le {p : F64} (hlt : mag p < 0x4330000000000000) (hge : mag half ≤ mag p) :
    ∃ c d e, c < 2 ^ 53 ∧ d + e = 1073 ∧ 2 ^ d ≤ c ∧ units p = c * 2 ^ e ∧ halfUnit = 2 ^ d * 2 ^ e := by
  obtain ⟨c, e, hc, he, hm⟩ := exists_exponent_significand (mag p)
  have hunits : units p = c * 2 ^ e := by rw [units, hm, unitsOfMag_exponent_significand hc.le he]
  obtain ⟨d, hd⟩ : ∃ d, 1073 = d + e := ⟨1073 - e, by omega⟩
  have hhalf : halfUnit = 2 ^ d * 2 ^ e := by rw [halfUnit, hd, pow_add]
  have hle : 2 ^ d * 2 ^ e ≤ c * 2 ^ e := by
    rw [← hhalf, ← hunits, ← units_half]
    exact unitsOfMag_mono hge
  exact ⟨c, d, e, hc, hd.symm, Nat.le_of_mul_le_mul_right hle (by positivity), hunits, hhalf⟩

/-- A phase at most a half below a whole number is reduced by that number: the number and the number and a half are values,
so the sum rounds to somewhere between them. -/
theorem reducesBy_of_half_below {p : F64} {k : Nat} (hfin : isFinite p = true) (hs : sign p = false) (hk : k < 2 ^ 52)
    (hle : units p ≤ k * unit) (hlow : k * unit ≤ units p + halfUnit) : ReducesBy p k := by
  have hp := toInt_of_sign_false hs
  have hunit := unit_eq_two_mul_halfUnit
  have hpos := unit_pos
  have hkhalf : k * unit + halfUnit = (2 * k + 1) * halfUnit := by rw [hunit]; ring
  have hvalue : FiniteMagnitude (k * unit + halfUnit) := by
    rw [hkhalf]
    exact finiteMagnitude_mul_two_pow (by omega) (by norm_num)
  have hlower : ((k * unit : Nat) : Int) ≤ toInt (add p half) := by
    refine le_toInt_add hfin (by decide) ?_ (by rw [hp, toInt_half]; omega)
    rw [Int.natAbs_natCast]
    exact finiteMagnitude_mul_unit (by omega)
  have hupper : toInt (add p half) ≤ ((k * unit + halfUnit : Nat) : Int) := by
    refine toInt_add_le hfin (by decide) ?_ (by rw [hp, toInt_half]; omega)
    rwa [Int.natAbs_natCast]
  push_cast at hlower hupper
  have hcast : ((k * unit : Nat) : Int) = k * unit := Nat.cast_mul k unit
  exact ⟨by omega, hlower, by rw [add_one_mul]; omega, by omega⟩

/-- Where `p + 0.5` passes the power of two above `p`, that power is a whole number at most a half above `p`. -/
theorem exists_reducesBy_of_carry {p : F64} {c d e : Nat} (hfin : isFinite p = true) (hs : sign p = false)
    (hc : c < 2 ^ 53) (hde : d + e = 1073) (hdc : 2 ^ d ≤ c) (hp : units p = c * 2 ^ e) (hh : halfUnit = 2 ^ d * 2 ^ e)
    (hcarry : 2 ^ 53 < c + 2 ^ d) : ∃ k, ReducesBy p k := by
  have hd0 : d ≠ 0 := by
    rintro rfl
    omega
  have hd53 : d < 53 := (Nat.pow_lt_pow_iff_right (by norm_num)).1 (lt_of_le_of_lt hdc hc)
  have hk : 2 ^ (52 - d) * unit = 2 ^ 53 * 2 ^ e := by
    have hexp : 2 ^ (52 - d) * 2 ^ d = 2 ^ 52 := by
      rw [← pow_add, Nat.sub_add_cancel (Nat.le_of_lt_succ hd53)]
    calc 2 ^ (52 - d) * unit = 2 * (2 ^ (52 - d) * 2 ^ d) * 2 ^ e := by rw [unit_eq_two_mul_halfUnit, hh]; ring
      _ = 2 ^ 53 * 2 ^ e := by rw [hexp, ← pow_succ']
  have hk52 : 2 ^ (52 - d) < 2 ^ 52 := Nat.pow_lt_pow_right Nat.one_lt_two (by omega)
  have hle := Nat.mul_le_mul_right (2 ^ e) hc.le
  have hlow := Nat.mul_le_mul_right (2 ^ e) hcarry.le
  rw [add_mul] at hlow
  exact ⟨_, reducesBy_of_half_below hfin hs hk52 (by omega) (by omega)⟩

/-- Below 2^52 every phase, except the value just below a half, is reduced by a whole number at most a half away. -/
theorem exists_reducesBy {p : F64} (hlt : mag p < 0x4330000000000000) (hne : p ≠ 0x3FDFFFFFFFFFFFFF) :
    ∃ k, ReducesBy p k := by
  have hfin := isFinite_of_mag_lt hlt
  have hmax := units_le_of_mag_lt hlt
  rcases Nat.lt_or_ge (mag p) (mag half) with hsmall | hge
  · exact ⟨0, reducesBy_zero hsmall hne⟩
  · obtain ⟨c, d, e, hc, hde, hdc, hp, hh⟩ := exists_grid_of_half_le hlt hge
    cases hs : sign p with
    | true =>
      have hsum : toInt p + toInt half = -(((c - 2 ^ d) * 2 ^ e : Nat) : Int) := by
        have := Nat.mul_le_mul_right (2 ^ e) hdc
        rw [toInt_of_sign_true hs, toInt_half, Nat.sub_mul]
        omega
      have hexact := toInt_add_eq hfin (b := half) (by decide) (by
        rw [hsum, Int.natAbs_neg, Int.natAbs_natCast]
        exact finiteMagnitude_mul_two_pow ((Nat.sub_le _ _).trans hc.le) (by omega))
      exact exists_reducesBy_of_exact hmax (toInt_half ▸ hexact)
    | false =>
      rcases Nat.lt_or_ge (2 ^ 53) (c + 2 ^ d) with hcarry | hfits
      · exact exists_reducesBy_of_carry hfin hs hc hde hdc hp hh hcarry
      · have hsum : toInt p + toInt half = (((c + 2 ^ d) * 2 ^ e : Nat) : Int) := by
          rw [toInt_of_sign_false hs, toInt_half, Nat.add_mul]
          omega
        have hexact := toInt_add_eq hfin (b := half) (by decide) (by
          rw [hsum, Int.natAbs_natCast]
          exact finiteMagnitude_mul_two_pow hfits (by omega))
        exact exists_reducesBy_of_exact hmax (toInt_half ▸ hexact)

theorem sign_mul_two_abs {x : F64} (hx : isFinite x = true) : sign (mul two (abs x)) = false := by
  rw [mul_eq_round (by decide) (by rwa [isFinite_abs]), sign_round, sign_abs]
  decide

/-- From a phase within a half of its whole number, `2 * |2 * r| - 1` lies between -1.0 and 1.0. -/
theorem mag_tri_le_oneMag {p : F64} {k : Int} (hlt : mag p < 0x4330000000000000) (h : ReducesBy p k) :
    mag (tri p) ≤ oneMag := by
  have hfin := isFinite_of_mag_lt hlt
  obtain ⟨hq, hqk⟩ := floor_of_bracket (isFinite_add_half hlt) h.small h.le_sum h.sum_lt
  rw [tri]
  generalize hrdef : sub p (floor (add p half)) = r
  obtain ⟨hr, hrle⟩ : isFinite r = true ∧ units r ≤ halfUnit := by
    rw [← hrdef, sub_eq_roundInt hfin hq, hqk]
    exact ⟨isFinite_roundInt _ finiteMagnitude_halfUnit h.near, units_roundInt_le _ finiteMagnitude_halfUnit h.near⟩
  have hone : FiniteMagnitude (2 * halfUnit) := by
    rw [← unit_eq_two_mul_halfUnit, ← one_mul unit]
    exact finiteMagnitude_mul_unit (by norm_num)
  obtain ⟨hx, hxle⟩ := mul_two_bounds hr hone hrle
  rw [← unit_eq_two_mul_halfUnit, ← units_abs] at hxle
  have hsign := sign_mul_two_abs hx
  rw [← isFinite_abs] at hx
  obtain ⟨hy, hyle⟩ := mul_two_bounds hx (finiteMagnitude_mul_unit (by norm_num)) hxle
  have htoInt := toInt_of_sign_false hsign
  have htoIntOne : toInt one = (unit : Int) := by decide +kernel
  rw [sub_eq_roundInt hy (by decide)]
  exact mag_roundInt_le_oneMag _ (by omega)

/-- The value just below a half: `p + 0.5` rounds up to 1.0, and `p - 1.0` rounds back to -0.5. -/
theorem tri_just_below_half : tri 0x3FDFFFFFFFFFFFFF = one := by decide +kernel

/-- Settles O26: the phase is reduced to within a half of zero, and doubling, `abs`, doubling and subtracting 1.0 never round
across 1.0. -/
theorem triangleStaysInRange : Obligations.TriangleStaysInRange := by
  intro p hfin hlt
  have hmag : mag p < 0x4330000000000000 := by
    have hNaN : isNaN (abs p) = false := not_isNaN_of_isFinite (by rwa [isFinite_abs])
    rw [lt_of_nonneg (sign_abs p) (by decide) hNaN (by decide), mag_abs, decide_eq_true_iff] at hlt
    exact hlt.trans_eq (by decide)
  apply between_negOne_one
  by_cases hp : p = 0x3FDFFFFFFFFFFFFF
  · rw [hp, tri_just_below_half]
    decide
  · obtain ⟨k, hk⟩ := exists_reducesBy hmag hp
    exact mag_tri_le_oneMag hmag hk

end Sys2Proof.Machine

/-! The peak that `NORM` finds, the next state of `NORM`, and the samples that `QUANT` stores (42_quantizer.md R140 to R143,
R150 to R154). -/

namespace Sys2Proof.F64

/-- Of two values with clear sign bits, neither a NaN, the comparison is that of their patterns. -/
theorem le_of_nonneg {a b : F64} (ha : sign a = false) (hb : sign b = false) (na : isNaN a = false) (nb : isNaN b = false) :
    le a b = decide (mag a ≤ mag b) := by
  simp [le, key, ha, hb, na, nb]

theorem abs_eq_zero_of_mag_eq_zero {x : F64} (h : mag x = 0) : abs x = zero := congrArg (ofMag false) h

end Sys2Proof.F64

namespace Sys2Proof.Machine

open Sys2Proof

/-! ### The peak of a signal (42_quantizer.md R140, R141) -/

@[simp] theorem peakOf_nil : peakOf [] = F64.zero := rfl

theorem abs_le_peakOf {sig : List F64} (h : ∀ x ∈ sig, F64.isFinite x = true) {x : F64} (hx : x ∈ sig) :
    F64.le (F64.abs x) (peakOf sig) = true := by
  obtain ⟨hsign, hfin, hmax, -⟩ := peakOf_spec sig h
  have habs : F64.isFinite (F64.abs x) = true := (F64.isFinite_abs x).trans (h x hx)
  rw [F64.le_of_nonneg (F64.sign_abs x) hsign (F64.not_isNaN_of_isFinite habs) (F64.not_isNaN_of_isFinite hfin),
    F64.mag_abs, decide_eq_true_iff]
  exact hmax x hx

/-- The maximum starts from `+0.0`; when it is still `+0.0` at the end, every sample is a zero and so has that magnitude. -/
theorem exists_abs_eq_peakOf {sig : List F64} (h : ∀ x ∈ sig, F64.isFinite x = true) (hne : sig ≠ []) :
    ∃ x ∈ sig, peakOf sig = F64.abs x := by
  obtain ⟨-, -, hmax, hzero | ⟨x, hx, habs⟩⟩ := peakOf_spec sig h
  · obtain ⟨y, hy⟩ := List.exists_mem_of_ne_nil sig hne
    have hmag : F64.mag y = 0 := Nat.le_zero.1 ((hmax y hy).trans_eq (congrArg F64.mag hzero))
    exact ⟨y, hy, hzero.trans (F64.abs_eq_zero_of_mag_eq_zero hmag).symm⟩
  · exact ⟨x, hx, habs.symm⟩

/-! ### The next state of `NORM` (42_quantizer.md R140, R143) -/

theorem exec_norm (s : State) : exec .norm s = .next (normBody s) := rfl

/-- The peak alone decides between the loud and the silent case, since the peak of an empty signal is not above 0. -/
theorem normBody_eq (s : State) :
    normBody s =
      if F64.lt F64.zero (peakOf s.mem.sig) then
        { s.rewriteSig (fun x => F64.div x (peakOf s.mem.sig)) with
          peak := peakOf s.mem.sig, silent := false, phase := .normalized }
      else { s with peak := peakOf s.mem.sig, silent := true, phase := .normalized } := by
  rcases normBody_cases s with ⟨hlen, e⟩ | ⟨-, hlt, e⟩ | ⟨-, hlt, e⟩
  · have hpeak : peakOf s.mem.sig = F64.zero := by rw [List.length_eq_zero_iff.1 hlen, peakOf_nil]
    have hlt : ¬ F64.lt F64.zero F64.zero = true := by decide
    rw [e, hpeak, if_neg hlt]
  · rw [e, if_pos hlt]
  · rw [e, if_neg (Bool.eq_false_iff.1 hlt)]

/-- Settles O27: the peak is the model's maximum of the magnitudes, and the next state depends on it alone. -/
theorem normFollowsPseudocode : Obligations.NormFollowsPseudocode := by
  intro s hfin
  refine ⟨peakOf s.mem.sig, ?empty, ?nonempty, ?next⟩
  case empty =>
    intro hnil
    rw [hnil, peakOf_nil]
  case nonempty => exact fun hne => ⟨exists_abs_eq_peakOf hfin hne, fun _ hx => abs_le_peakOf hfin hx⟩
  case next =>
    rw [exec_norm, normBody_eq]
    rfl

/-! ### The next state of `QUANT` (42_quantizer.md R150, R151, R154) -/

theorem exec_quant (s : State) : exec .quant s = .next (s.settle (quantBody s)) := rfl

/-- On the stated domain the free value of log 11 plays no part (42_quantizer.md R151). -/
theorem quantize_of_withinOne {x : F64} (h : withinOne x = true) : quantize x = BitVec.ofInt 16 (quantizeInt x) :=
  if_pos h

theorem fillPcm_congr {f g : F64 → Sample} {s : State} (h : ∀ x ∈ s.mem.sig, f x = g x) : s.fillPcm f = s.fillPcm g := by
  rw [State.fillPcm, State.fillPcm, List.map_congr_left h]

/-- Settles O31: the phase alone decides whether `QUANT` raises, and samples within 1 are all in the stated domain. -/
theorem quantFollowsPseudocode : Obligations.QuantFollowsPseudocode := by
  intro s
  rw [exec_quant]
  rcases quantBody_cases s with ⟨hp, e⟩ | ⟨hp, e⟩
  · rw [e, settle_error]
    exact ⟨fun _ => rfl, fun hne => absurd hp hne⟩
  · rw [e, settle_ok]
    refine ⟨fun heq => absurd heq hp, fun _ hone => ?_⟩
    rw [fillPcm_congr fun x hx => quantize_of_withinOne (hone x hx)]
    rfl

end Sys2Proof.Machine

/-! The control commands: pseudocode that never raises, so that running it answers exactly the state it leaves (43_control.md
R170 to R172). -/

namespace Sys2Proof.Machine

open Sys2Proof

/-- The error entry has no part in a command whose pseudocode never raises. -/
theorem runCommand_of_never_raises (f : State → State) (s : State) :
    runCommand (fun t => .ok (f t)) s = .next (f s) := by
  rw [runCommand_eq, settle_ok]

theorem exec_nop (s : State) : exec .nop s = .next s := runCommand_of_never_raises id s

theorem exec_clear (s : State) :
    exec .clear s = .next { s.emptyBuffers with peak := F64.zero, phase := .assembling, silent := false } :=
  runCommand_of_never_raises (fun t => { t.emptyBuffers with peak := F64.zero, phase := .assembling, silent := false }) s

theorem exec_clrerr (s : State) : exec .clrerr s = .next s.clearError := runCommand_of_never_raises State.clearError s

theorem emptyBuffers_eq (s : State) : s.emptyBuffers = { s with mem := { sig := [], pcm := [] } } := rfl

theorem clearError_eq (s : State) : s.clearError = { s with err := false, errCode := .noError } := rfl

/-- Settles O14: the pseudocode of `NOP` leaves the state it starts from. -/
theorem nopChangesNothing : Obligations.NopChangesNothing := exec_nop

/-- Settles O15: the buffers are emptied in one write, PEAK, PHASE and SILENT in three more. -/
theorem clearEmptiesBuffers : Obligations.ClearEmptiesBuffers := by
  intro s
  rw [exec_clear, emptyBuffers_eq]

/-- Settles O16: the return from the error state (60_exceptions.md R212) is all that `CLRERR` does. -/
theorem clrerrClearsErrorOnly : Obligations.ClrerrClearsErrorOnly := by
  intro s
  rw [exec_clrerr, clearError_eq]

end Sys2Proof.Machine

/-! Which words are illegal, and the error they raise (30_encoding.md R85, 60_exceptions.md R202). -/

namespace Sys2Proof

/-- The four ways a word is read, in the order of the checks (30_encoding.md R85). -/
theorem decodeWord_cases (w : Word) :
    (rsvdField w ≠ 0 ∧ decodeWord w = .error .reservedBits) ∨
    (rsvdField w = 0 ∧ opField w = 3 ∧ decodeWord w = .ok (decodeSynth (kindField w))) ∨
    (rsvdField w = 0 ∧ opField w ≠ 3 ∧ kindField w ≠ 0 ∧ decodeWord w = .error .kindNotZero) ∨
    (rsvdField w = 0 ∧ opField w ≠ 3 ∧ kindField w = 0 ∧ decodeWord w = decodeOp (opField w)) := by
  by_cases hr : rsvdField w = 0
  · by_cases ho : opField w = 3
    · exact .inr (.inl ⟨hr, ho, by rw [decodeWord_of_rsvd hr, if_pos ho]⟩)
    · by_cases hk : kindField w = 0
      · exact .inr (.inr (.inr ⟨hr, ho, hk, by rw [decodeWord_of_rsvd hr, if_neg ho, if_neg (not_not_intro hk)]⟩))
      · exact .inr (.inr (.inl ⟨hr, ho, hk, by rw [decodeWord_of_rsvd hr, if_neg ho, if_pos hk]⟩))
  · exact .inl ⟨hr, decodeWord_of_rsvd_ne hr⟩

/-- Of the operations other than `SYNTH`, exactly 6..15 are reserved (30_encoding.md R82). -/
theorem decodeOp_error_iff {op : BitVec 4} (h : op ≠ 3) : (∃ e, decodeOp op = .error e) ↔ 6 ≤ op.toNat := by
  have h3 : op.toNat ≠ 3 := fun h' => h (BitVec.eq_of_toNat_eq h')
  unfold decodeOp
  split
  case h_6 _ h0 h1 h2 h4 h5 =>
    have hge : 6 ≤ op.toNat := by
      simp only [imp_false] at h0 h1 h2 h4 h5
      omega
    exact ⟨fun _ => hge, fun _ => ⟨_, rfl⟩⟩
  all_goals
    simp only [reduceCtorEq, exists_false, false_iff]
    omega

/-- The words of R202, field by field, are exactly the illegal ones. -/
theorem decodeWord_error_iff (w : Word) :
    (∃ e, decodeWord w = .error e) ↔
      rsvdField w ≠ 0 ∨ 6 ≤ (opField w).toNat ∨ (kindField w ≠ 0 ∧ opField w ≠ 3) := by
  rcases decodeWord_cases w with ⟨hr, e⟩ | ⟨hr, ho, e⟩ | ⟨-, ho, hk, e⟩ | ⟨hr, ho, hk, e⟩
  · exact ⟨fun _ => .inl hr, fun _ => ⟨_, e⟩⟩
  · simp [e, hr, ho]
  · exact ⟨fun _ => .inr (.inr ⟨hk, ho⟩), fun _ => ⟨_, e⟩⟩
  · rw [e, decodeOp_error_iff ho]
    simp [hr, hk]

/-- No kind of `SYNTH` is `CLRERR` (30_encoding.md R83). -/
theorem decodeSynth_ne_clrerr (kind : BitVec 4) : decodeSynth kind ≠ .clrerr := by
  unfold decodeSynth
  split <;> exact nofun

/-- Only OP = 2 is `CLRERR` (30_encoding.md R82). -/
theorem eq_two_of_decodeOp_clrerr {op : BitVec 4} (h : decodeOp op = .ok .clrerr) : op = 2 := by
  unfold decodeOp at h
  split at h
  case h_3 hop => exact BitVec.eq_of_toNat_eq hop
  all_goals cases h

/-- `CLRERR` has the one word that 43_control.md R172 gives it. -/
theorem decodeWord_eq_clrerr_iff (w : Word) : decodeWord w = .ok .clrerr ↔ w = 0x00000002 := by
  constructor
  · intro h
    rcases decodeWord_cases w with ⟨-, e⟩ | ⟨-, -, e⟩ | ⟨-, -, -, e⟩ | ⟨hr, -, hk, e⟩
    · cases e.symm.trans h
    · exact absurd (Except.ok.inj (e.symm.trans h)) (decodeSynth_ne_clrerr _)
    · cases e.symm.trans h
    · rw [eq_commandWord hr, hk, eq_two_of_decodeOp_clrerr (e.symm.trans h)]
      rfl
  · rintro rfl
    exact decodeWord_encode (i := .clrerr) rfl

end Sys2Proof

namespace Sys2Proof.Machine

open Sys2Proof

/-- A turn of the engine with a pending word is the engine step on that word (43_control.md R176, R177). -/
theorem step_of_pending {s : State} {w : Word} (hn : s.nextTurn = .engine) (hp : s.pending = some w) :
    step s = engineStep w s.restOfSchedule := by
  rw [step_engine hn, engineTurn, restOfSchedule_pending, hp]

/-- An illegal word completes by the error entry alone (60_exceptions.md R202). -/
theorem engineStep_of_decode_error {w : Word} (h : ∃ e, decodeWord w = .error e) (s : State) :
    engineStep w s = .next (s.errorEntry .illegalCmd).complete := by
  obtain ⟨e, he⟩ := h
  rw [engineStep, he]

/-- Settles O6: the decoder rejects exactly the words of R202, and the engine then performs one error entry. -/
theorem illegalWordRaisesIllegalCmd : Obligations.IllegalWordRaisesIllegalCmd := by
  refine ⟨decodeWord_error_iff, fun s w hn hp hw => ?_⟩
  rw [step_of_pending hn hp, engineStep_of_decode_error hw]
  rfl

/-! ### The error state (60_exceptions.md R210) -/

/-- ERR and ERRCODE are the same in both states. -/
def SameError (s t : State) : Prop := t.err = s.err ∧ t.errCode = s.errCode

theorem sameError_refl (s : State) : SameError s s := ⟨rfl, rfl⟩

/-- The first code wins: an error entry while ERR is 1 keeps ERR and ERRCODE (60_exceptions.md R209). -/
theorem sameError_errorEntry {s : State} (herr : s.err = true) (c : ErrCode) : SameError s (s.errorEntry c) :=
  ⟨herr.symm, if_pos herr⟩

theorem sameError_busRead (t : Target) (s : State) : SameError s (s.busRead t) := by
  rcases busRead_cases t s with ⟨-, -, e⟩ | ⟨-, e⟩
  all_goals
    rw [e]
    exact ⟨rfl, rfl⟩

/-- While ERR is 1 a write may at most repeat an error entry (60_exceptions.md R210, R211). -/
theorem sameError_writeTarget {s : State} (herr : s.err = true) (t : Target) (v : Word) :
    SameError s (s.writeTarget t v) := by
  rcases writeTarget_cases t v s with e | ⟨-, e⟩ | ⟨-, -, -, e⟩ | e | ⟨-, e | e | e | e | e | e⟩
  case inr.inl =>
    rw [e]
    exact sameError_errorEntry herr _
  all_goals
    rw [e]
    exact ⟨rfl, rfl⟩

theorem sameError_busAccess {s : State} (herr : s.err = true) (a : Access) : SameError s (s.busAccess a) := by
  rcases busAccess_cases a s with ⟨_, _, t, -, -, e⟩ | ⟨_, _, v, t, -, -, e⟩ | e
  · rw [e]
    exact sameError_busRead t s
  · rw [e]
    exact sameError_writeTarget herr t v
  · rw [e]
    exact sameError_refl s

/-- A command keeps a standing error when its pseudocode does so wherever it completes. -/
theorem sameError_of_runCommand {body : State → Except ErrCode State} {s t : State} (herr : s.err = true)
    (hbody : ∀ t, body s = .ok t → SameError s t) (h : runCommand body s = .next t) : SameError s t := by
  rcases runCommand_cases h with hok | ⟨c, -, rfl⟩
  · exact hbody t hok
  · exact sameError_errorEntry herr c

theorem sameError_of_synthBody {gen : F64 → F64 → F64} {s t : State} (h : synthBody gen s = .ok t) : SameError s t := by
  obtain ⟨-, -, _, -, -, -, rfl⟩ := synthBody_ok h
  exact ⟨rfl, rfl⟩

theorem sameError_of_quantBody {s t : State} (h : quantBody s = .ok t) : SameError s t := by
  rcases quantBody_cases s with ⟨-, e⟩ | ⟨-, e⟩
  · cases e.symm.trans h
  · cases e.symm.trans h
    exact ⟨rfl, rfl⟩

theorem sameError_normBody (s : State) : SameError s (normBody s) := by
  rcases normBody_cases s with ⟨-, e⟩ | ⟨-, -, e⟩ | ⟨-, -, e⟩
  all_goals
    rw [e]
    exact ⟨rfl, rfl⟩

/-- While ERR is 1 no command but `CLRERR` changes ERR or ERRCODE (60_exceptions.md R210). -/
theorem sameError_of_exec {i : Instr} {s t : State} (herr : s.err = true) (hi : i ≠ .clrerr) (h : exec i s = .next t) :
    SameError s t := by
  cases i with
  | nop =>
    cases h
    exact sameError_refl s
  | clear =>
    cases h
    exact ⟨rfl, rfl⟩
  | clrerr => exact absurd rfl hi
  | synthSin | synthTri | synthSqr | synthZero k =>
    rw [exec_of_synthKind rfl] at h
    exact sameError_of_runCommand herr (fun _ => sameError_of_synthBody) h
  | norm =>
    cases h
    exact sameError_normBody s
  | quant => exact sameError_of_runCommand herr (fun _ => sameError_of_quantBody) h

/-- The completion of a word other than that of `CLRERR` keeps a standing error (60_exceptions.md R210). -/
theorem sameError_of_engineStep {w : Word} {s t : State} (herr : s.err = true) (hw : w ≠ 0x00000002)
    (h : engineStep w s = .next t) : SameError s t := by
  rcases engineStep_cases w s with ⟨-, e⟩ | ⟨i, u, hi, hu, e⟩
  · cases e.symm.trans h
    exact sameError_errorEntry herr _
  · cases e.symm.trans h
    have hne : i ≠ .clrerr := by
      rintro rfl
      exact hw ((decodeWord_eq_clrerr_iff w).1 hi)
    exact (sameError_of_exec herr hne hu : SameError s u)

/-- The completion of `CLRERR` clears the error (60_exceptions.md R212). -/
theorem engineStep_clrerrWord (s : State) : engineStep 0x00000002 s = .next s.clearError.complete := by
  rw [engineStep, (decodeWord_eq_clrerr_iff _).2 rfl]
  exact congrArg completeOutcome (exec_clrerr s)

/-- Settles O34: of the turns a step can take, only a reset and the completion of `CLRERR` touch a standing error. -/
theorem errorIsStickyAndFirstWins : Obligations.ErrorIsStickyAndFirstWins := by
  intro s t herr hstep
  have sticky {u : State} (h : SameError s.restOfSchedule u) : u.err = true ∧ u.errCode = s.errCode :=
    ⟨h.1.trans herr, h.2⟩
  rcases step_cases s with ⟨a, ha, e⟩ | ⟨hr, e⟩ | ⟨hn, hp, e⟩ | ⟨w, hn, hp, e⟩
  · cases e.symm.trans hstep
    rw [if_neg (by simp [ha])]
    exact sticky (sameError_busAccess (s := s.restOfSchedule) herr a)
  · cases e.symm.trans hstep
    rw [if_pos (.inl hr)]
    exact ⟨rfl, rfl⟩
  · cases e.symm.trans hstep
    rw [if_neg (by simp [hn, hp])]
    exact sticky (sameError_refl _)
  · by_cases hw : w = 0x00000002
    · subst hw
      cases (e.trans (engineStep_clrerrWord _)).symm.trans hstep
      rw [if_pos (.inr ⟨hn, hp⟩)]
      exact ⟨rfl, rfl⟩
    · rw [if_neg (by simpa [hn, hp] using hw)]
      exact sticky (sameError_of_engineStep (s := s.restOfSchedule) herr hw (e.symm.trans hstep))

end Sys2Proof.Machine

/-! The two directions of the encoding and the number of legal words (30_encoding.md R81, R85, R87, 20_memory.md R61). -/

namespace Sys2Proof

/-! ### The bytes of a command word (20_memory.md R61) -/

/-- The bus's byte order loses nothing: a word is put together again from its own four bytes. -/
theorem wordOfBytes_byteOfWord (w : Word) :
    wordOfBytes (byteOfWord w 0) (byteOfWord w 1) (byteOfWord w 2) (byteOfWord w 3) = w := by
  apply BitVec.eq_of_getLsbD_eq
  intro i hi
  simp only [wordOfBytes, byteOfWord, BitVec.getLsbD_append, BitVec.getLsbD_extractLsb']
  grind

/-- The decoder takes the first four bytes as one word and leaves the others (30_encoding.md R80). -/
theorem decodeBytes_bytesOfWord_append (w : Word) (rest : List Byte) :
    decodeBytes (bytesOfWord w ++ rest) = (decodeWord w).map (·, rest) := by
  simp only [bytesOfWord, List.cons_append, List.nil_append, decodeBytes, wordOfBytes_byteOfWord]

/-- Settles O1: the four bytes make the command's word again, and the decoder inverts the encoder on words. -/
theorem decodeInvertsEncode : Obligations.DecodeInvertsEncode := by
  intro i rest hi
  rw [encodeBytes, decodeBytes_bytesOfWord_append, decodeWord_encode hi]
  rfl

/-! ### The command a word decodes to -/

/-- Every kind is read as a well-formed `SYNTH`, whose word has that KIND and OP = 3 (30_encoding.md R83). -/
theorem decodeSynth_wf_encode (kind : BitVec 4) :
    (decodeSynth kind).wf = true ∧ encode (decodeSynth kind) = commandWord kind 3 := by
  revert kind
  decide

/-- An operation other than `SYNTH` is well formed, and its word has KIND = 0 (30_encoding.md R82). -/
theorem wf_encode_of_decodeOp {op : BitVec 4} {i : Instr} (h : decodeOp op = .ok i) :
    i.wf = true ∧ encode i = commandWord 0 op := by
  unfold decodeOp at h
  split at h
  case h_6 => cases h
  all_goals
    rename_i hop
    cases h
    have hofNat : op = BitVec.ofNat 4 op.toNat := by simp
    rw [hofNat, hop]
    exact ⟨rfl, rfl⟩

/-- Settles O2: a word that decodes has RSVD = 0, so its OP and KIND fields are all of it. -/
theorem encodeInvertsDecode : Obligations.EncodeInvertsDecode := by
  intro w i h
  rcases decodeWord_cases w with ⟨-, e⟩ | ⟨hr, ho, e⟩ | ⟨-, -, -, e⟩ | ⟨hr, -, hk, e⟩
  · cases e.symm.trans h
  · obtain rfl := Except.ok.inj (e.symm.trans h)
    rw [eq_commandWord hr, ho, kindField_commandWord]
    exact decodeSynth_wf_encode _
  · cases e.symm.trans h
  · rw [eq_commandWord hr, hk]
    exact wf_encode_of_decodeOp (e.symm.trans h)

/-! ### The legal words (30_encoding.md R85) -/

/-- The well-formed commands, in the order of the encoding table (30_encoding.md R87). -/
def wellFormedCommands : List Instr :=
  [.nop, .clear, .clrerr, .synthSin, .synthTri, .synthSqr, .synthZero 3, .synthZero 4, .synthZero 5, .synthZero 6,
    .synthZero 7, .synthZero 8, .synthZero 9, .synthZero 10, .synthZero 11, .synthZero 12, .synthZero 13, .synthZero 14,
    .synthZero 15, .norm, .quant]

theorem mem_wellFormedCommands_iff (i : Instr) : i ∈ wellFormedCommands ↔ i.wf = true := by
  cases i with
  | synthZero k =>
    revert k
    decide
  | nop | clear | clrerr | synthSin | synthTri | synthSqr | norm | quant => decide

/-- The legal words are the words of the well-formed commands. -/
theorem exists_decodeWord_ok_iff (w : Word) : (∃ i, decodeWord w = .ok i) ↔ w ∈ wellFormedCommands.map encode := by
  rw [List.mem_map]
  constructor
  · rintro ⟨i, h⟩
    obtain ⟨hwf, hw⟩ := encodeInvertsDecode w i h
    exact ⟨i, (mem_wellFormedCommands_iff i).2 hwf, hw⟩
  · rintro ⟨i, hi, rfl⟩
    exact ⟨i, decodeWord_encode ((mem_wellFormedCommands_iff i).1 hi)⟩

/-- Settles O3: the 21 well-formed commands have different words. -/
theorem exactlyTwentyOneLegalWords : Obligations.ExactlyTwentyOneLegalWords :=
  ⟨wellFormedCommands.map encode, by decide, rfl, exists_decodeWord_ok_iff⟩

end Sys2Proof

/-! The order of the binary64 values, and that every operation rounds the exact result to nearest, ties to even
(00_scope.md R11). -/

namespace Sys2Proof.F64

/-! ### The order of the patterns is the order of the values -/

/-- The next pattern is one more on the grid of the pattern's exponent part, a carry included. -/
theorem unitsOfMag_strictMono : StrictMono unitsOfMag := by
  refine strictMono_nat_of_lt_succ fun m => ?_
  obtain ⟨c, e, hc, he, rfl⟩ := exists_exponent_significand m
  rw [Nat.add_assoc, unitsOfMag_exponent_significand hc.le he, unitsOfMag_exponent_significand hc (by omega)]
  exact Nat.mul_lt_mul_of_pos_right (Nat.lt_succ_self c) (by positivity)

theorem units_lt_units_iff {a b : F64} : units a < units b ↔ mag a < mag b := unitsOfMag_strictMono.lt_iff_lt

theorem units_inj_iff {a b : F64} : units a = units b ↔ mag a = mag b := unitsOfMag_strictMono.injective.eq_iff

theorem units_eq_zero_iff {x : F64} : units x = 0 ↔ mag x = 0 := unitsOfMag_strictMono.injective.eq_iff (b := 0)

theorem toInt_lt_toInt_iff {a b : F64} : toInt a < toInt b ↔ key a < key b := by
  have hlt := units_lt_units_iff (a := a) (b := b)
  have hgt := units_lt_units_iff (a := b) (b := a)
  have ha := units_eq_zero_iff (x := a)
  have hb := units_eq_zero_iff (x := b)
  unfold toInt key
  split_ifs <;> omega

theorem toRat_lt_toRat_iff {a b : F64} : toRat a < toRat b ↔ key a < key b := by
  rw [toRat, toRat, div_lt_div_iff_of_pos_right unit_cast_pos, Int.cast_lt, toInt_lt_toInt_iff]

theorem toRat_le_toRat_iff {a b : F64} : toRat a ≤ toRat b ↔ key a ≤ key b := by
  rw [← not_lt, toRat_lt_toRat_iff, not_lt]

theorem toRat_inj_iff {a b : F64} : toRat a = toRat b ↔ key a = key b := by
  rw [le_antisymm_iff, toRat_le_toRat_iff, toRat_le_toRat_iff, ← le_antisymm_iff]

/-- Settles O55: each comparison is one of the keys, which are ordered as the values are. -/
theorem comparisonsFollowValues : Obligations.ComparisonsFollowValues := by
  intro a b
  constructor
  · intro ha hb
    have hna := not_isNaN_of_isFinite ha
    have hnb := not_isNaN_of_isFinite hb
    rw [toRat_lt_toRat_iff, toRat_le_toRat_iff, toRat_inj_iff]
    simp [lt, le, eq, hna, hnb]
  · rintro (h | h) <;> simp [lt, le, eq, h]

/-! ### The nearest whole number of a quotient -/

/-- How far the whole number `k` is from `num / den`, in steps of `1 / den`. -/
def gap (num den k : Nat) : Nat := (k * den - num) + (num - k * den)

/-- Below a half the quotient is rounded down, above a half up, and at a half to the even neighbour. -/
theorem divNearestEven_cases {num den : Nat} (hden : 0 < den) : ∃ q r, num = q * den + r ∧ r < den ∧
    ((2 * r < den ∧ divNearestEven num den = q) ∨ (den < 2 * r ∧ divNearestEven num den = q + 1) ∨
      (2 * r = den ∧ (divNearestEven num den = q ∨ divNearestEven num den = q + 1) ∧ divNearestEven num den % 2 = 0)) := by
  refine ⟨num / den, num % den, (Nat.div_add_mod' num den).symm, Nat.mod_lt num hden, ?_⟩
  unfold divNearestEven
  split_ifs <;> omega

/-- A whole number lies on one side of the two neighbours of the quotient. -/
theorem mul_le_or_succ_mul_le (k q den : Nat) : k * den ≤ q * den ∨ (q + 1) * den ≤ k * den := by
  rcases Nat.lt_or_ge q k with h | h
  · exact .inr (Nat.mul_le_mul_right den h)
  · exact .inl (Nat.mul_le_mul_right den h)

/-- No whole number is nearer to the quotient than the rounded one. -/
theorem gap_divNearestEven_le {num den : Nat} (hden : 0 < den) (k : Nat) :
    gap num den (divNearestEven num den) ≤ gap num den k := by
  obtain ⟨q, r, hnum, hr, h⟩ := divNearestEven_cases (num := num) hden
  have hk := mul_le_or_succ_mul_le k q den
  have hsucc := Nat.add_one_mul q den
  unfold gap
  rcases h with ⟨h2, e⟩ | ⟨h2, e⟩ | ⟨h2, e | e, -⟩ <;> rw [e] <;> omega

/-- Where another whole number is as near, the rounded one is even. -/
theorem divNearestEven_even_of_tie {num den k : Nat} (hden : 0 < den) (hne : k ≠ divNearestEven num den)
    (h : gap num den k = gap num den (divNearestEven num den)) : divNearestEven num den % 2 = 0 := by
  obtain ⟨q, r, hnum, hr, hcases⟩ := divNearestEven_cases (num := num) hden
  have hk := mul_le_or_succ_mul_le k q den
  have hsucc := Nat.add_one_mul q den
  have hinj (n : Nat) (hn : k ≠ n) : k * den ≠ n * den := fun e => hn (Nat.eq_of_mul_eq_mul_right hden e)
  have hmul := hinj _ hne
  unfold gap at h
  rcases hcases with ⟨h2, e⟩ | ⟨h2, e⟩ | ⟨-, -, heven⟩
  · rw [e] at h hmul
    omega
  · rw [e] at h hmul
    omega
  · exact heven

/-! ### The rounded magnitude -/

/-- The magnitude of the rounded quotient before overflow, its excess bits replaced by zeros. -/
def roundedUnits (num den : Nat) : Nat :=
  divNearestEven num (den * 2 ^ excessBits (num / den)) * 2 ^ excessBits (num / den)

theorem units_round_eq_min {neg : Bool} {num den : Nat} (hden : 0 < den) (hbig : num / den < 2 ^ 2 ^ 13) :
    units (round neg num den) = min (roundedUnits num den) (unitsOfMag infMag) := units_round hden hbig

theorem gap_mul_two_pow (num den k s : Nat) : gap num den (k * 2 ^ s) = gap num (den * 2 ^ s) k := by
  have h : k * 2 ^ s * den = k * (den * 2 ^ s) := by ring
  rw [gap, gap, h]

/-- A value finer than the grid of the rounded quotient lies below the quotient's first bit, which is nearer. -/
theorem gap_roundedUnits_lt_of_fine {num den c e : Nat} (hden : 0 < den) (hbig : num / den < 2 ^ 2 ^ 13) (hc : c < 2 ^ 53)
    (he : e < excessBits (num / den)) : gap num den (roundedUnits num den) < gap num den (c * 2 ^ e) := by
  have hfirst := (Nat.le_div_iff_mul_le hden).1 (two_pow_excessBits_le hbig (by omega))
  have hnear := gap_divNearestEven_le (num := num) (den := den * 2 ^ excessBits (num / den)) (by positivity) (2 ^ 52)
  rw [← gap_mul_two_pow, ← gap_mul_two_pow, ← pow_add] at hnear
  refine lt_of_le_of_lt hnear ?_
  generalize excessBits (num / den) = s at he hfirst ⊢
  have hlt : c * 2 ^ e * den < 2 ^ (52 + s) * den := by
    refine Nat.mul_lt_mul_of_pos_right ?_ hden
    calc c * 2 ^ e < 2 ^ 53 * 2 ^ e := Nat.mul_lt_mul_of_pos_right hc (by positivity)
      _ = 2 ^ (52 + (e + 1)) := by rw [← pow_add]; congr 1; omega
      _ ≤ 2 ^ (52 + s) := Nat.pow_le_pow_right (by norm_num) (by omega)
  unfold gap
  omega

/-- A value on the grid of the rounded quotient is no nearer, and where it is as near the significand is even. -/
theorem gap_roundedUnits_le_of_coarse {num den c e : Nat} (hden : 0 < den) (he : excessBits (num / den) ≤ e) :
    gap num den (roundedUnits num den) ≤ gap num den (c * 2 ^ e) ∧
      (c * 2 ^ e ≠ roundedUnits num den → gap num den (c * 2 ^ e) = gap num den (roundedUnits num den) →
        divNearestEven num (den * 2 ^ excessBits (num / den)) % 2 = 0) := by
  unfold roundedUnits
  generalize excessBits (num / den) = s at he ⊢
  obtain ⟨d, rfl⟩ := Nat.exists_eq_add_of_le he
  have hgrid : c * 2 ^ (s + d) = c * 2 ^ d * 2 ^ s := by rw [pow_add]; ring
  have hpos : 0 < den * 2 ^ s := by positivity
  rw [hgrid, gap_mul_two_pow, gap_mul_two_pow]
  refine ⟨gap_divNearestEven_le hpos _, fun hne => divNearestEven_even_of_tie hpos ?_⟩
  exact fun heq => hne (congrArg (· * 2 ^ s) heq)

/-- No value is nearer to the quotient than the rounded one. -/
theorem gap_roundedUnits_le {num den n : Nat} (hden : 0 < den) (hbig : num / den < 2 ^ 2 ^ 13) (hn : FiniteMagnitude n) :
    gap num den (roundedUnits num den) ≤ gap num den n := by
  obtain ⟨c, e, hc, -, rfl⟩ := hn
  rcases Nat.lt_or_ge e (excessBits (num / den)) with he | he
  · exact (gap_roundedUnits_lt_of_fine hden hbig hc he).le
  · exact (gap_roundedUnits_le_of_coarse hden he).1

/-- Where another value is as near, the rounded significand is even. -/
theorem significand_even_of_tie {num den n : Nat} (hden : 0 < den) (hbig : num / den < 2 ^ 2 ^ 13) (hn : FiniteMagnitude n)
    (hne : n ≠ roundedUnits num den) (h : gap num den n = gap num den (roundedUnits num den)) :
    divNearestEven num (den * 2 ^ excessBits (num / den)) % 2 = 0 := by
  obtain ⟨c, e, hc, -, rfl⟩ := hn
  rcases Nat.lt_or_ge e (excessBits (num / den)) with he | he
  · exact absurd h (gap_roundedUnits_lt_of_fine hden hbig hc he).ne'
  · exact (gap_roundedUnits_le_of_coarse hden he).2 hne h

/-- The pattern of a finite rounded quotient ends in the last bit of its significand. -/
theorem getLsbD_zero_round {neg : Bool} {num den : Nat} (hfin : isFinite (round neg num den) = true)
    (heven : divNearestEven num (den * 2 ^ excessBits (num / den)) % 2 = 0) : (round neg num den).getLsbD 0 = false := by
  rw [isFinite_iff, mag_round, roundMag] at hfin
  have hmag : mag (round neg num den) % 2 = 0 := by
    rw [mag_round, roundMag]
    omega
  have hlast : (round neg num den).toNat % 2 = 0 := by
    rw [mag] at hmag
    omega
  rw [BitVec.getLsbD, Nat.testBit_zero, hlast]
  rfl

/-! ### Overflow -/

/-- At half a step above an odd number the quotient is rounded up, the number above being even. -/
theorem succ_le_divNearestEven_iff {num den k : Nat} (hden : 0 < den) (hodd : k % 2 = 1) :
    k + 1 ≤ divNearestEven num den ↔ (2 * k + 1) * den ≤ 2 * num := by
  obtain ⟨q, r, hnum, hr, h⟩ := divNearestEven_cases (num := num) hden
  have hhalf : (2 * k + 1) * den = 2 * (k * den) + den := by ring
  have hsucc := Nat.add_one_mul q den
  have hsucc' := Nat.add_one_mul k den
  rcases Nat.lt_trichotomy q k with hlt | rfl | hgt
  · have hle : (q + 1) * den ≤ k * den := Nat.mul_le_mul_right den hlt
    omega
  · omega
  · have hle : (k + 1) * den ≤ q * den := Nat.mul_le_mul_right den hgt
    omega

/-- The rounded quotient reaches a power of two exactly from half a step below it on, the step of the values under it. -/
theorem two_pow_le_roundedUnits_iff {num den E : Nat} (hden : 0 < den) (hbig : num / den < 2 ^ 2 ^ 13) :
    2 ^ 53 * 2 ^ (E + 1) ≤ roundedUnits num den ↔ (2 ^ 54 - 1) * 2 ^ E * den ≤ num := by
  have hkept := two_pow_le_divNearestEven_excess hden hbig
  have hcarry := divNearestEven_excess_le hden hbig
  have hlow := two_pow_excessBits_le hbig
  have hhigh := lt_two_pow_excessBits hbig
  rw [Nat.le_div_iff_mul_le hden] at hlow
  rw [Nat.div_lt_iff_lt_mul hden] at hhigh
  rw [roundedUnits]
  generalize excessBits (num / den) = s at hkept hcarry hlow hhigh ⊢
  rcases Nat.lt_trichotomy s (E + 1) with hs | rfl | hs
  · have hleft : divNearestEven num (den * 2 ^ s) * 2 ^ s < 2 ^ 53 * 2 ^ (E + 1) :=
      calc divNearestEven num (den * 2 ^ s) * 2 ^ s ≤ 2 ^ 53 * 2 ^ s := Nat.mul_le_mul_right _ hcarry
        _ < 2 ^ 53 * 2 ^ (E + 1) := Nat.mul_lt_mul_of_pos_left (Nat.pow_lt_pow_right Nat.one_lt_two hs) (by norm_num)
    have hright : num < (2 ^ 54 - 1) * 2 ^ E * den := by
      refine lt_of_lt_of_le hhigh (Nat.mul_le_mul_right den ?_)
      calc 2 ^ (53 + s) ≤ 2 ^ (53 + E) := Nat.pow_le_pow_right (by norm_num) (by omega)
        _ = 2 ^ 53 * 2 ^ E := pow_add _ _ _
        _ ≤ (2 ^ 54 - 1) * 2 ^ E := Nat.mul_le_mul_right _ (by norm_num)
    exact iff_of_false (Nat.not_le.2 hleft) (Nat.not_le.2 hright)
  · have hhalf : (2 * (2 ^ 53 - 1) + 1) * (den * 2 ^ (E + 1)) = 2 * ((2 ^ 54 - 1) * 2 ^ E * den) := by ring
    have hiff := succ_le_divNearestEven_iff (num := num) (den := den * 2 ^ (E + 1)) (k := 2 ^ 53 - 1) (by positivity) rfl
    rw [hhalf, Nat.mul_le_mul_left_iff Nat.two_pos] at hiff
    rw [Nat.mul_le_mul_right_iff (by positivity)]
    exact hiff
  · have hleft : 2 ^ 53 * 2 ^ (E + 1) ≤ divNearestEven num (den * 2 ^ s) * 2 ^ s :=
      calc 2 ^ 53 * 2 ^ (E + 1) = 2 ^ 52 * 2 ^ (E + 2) := by ring
        _ ≤ 2 ^ 52 * 2 ^ s := Nat.mul_le_mul_left _ (Nat.pow_le_pow_right (by norm_num) hs)
        _ ≤ divNearestEven num (den * 2 ^ s) * 2 ^ s := Nat.mul_le_mul_right _ (hkept (by omega))
    have hright : (2 ^ 54 - 1) * 2 ^ E * den ≤ num := by
      refine le_trans (Nat.mul_le_mul_right den ?_) (hlow (by omega))
      calc (2 ^ 54 - 1) * 2 ^ E ≤ 2 ^ 54 * 2 ^ E := Nat.mul_le_mul_right _ (by norm_num)
        _ = 2 ^ (54 + E) := (pow_add _ _ _).symm
        _ ≤ 2 ^ (52 + s) := Nat.pow_le_pow_right (by norm_num) (by omega)
    exact iff_of_true hleft hright

/-- Half a step above the largest finite value, in units. -/
def overflowUnits : Nat := (2 ^ 54 - 1) * 2 ^ 2044

theorem unitsOfMag_infMag_le_roundedUnits_iff {num den : Nat} (hden : 0 < den) (hbig : num / den < 2 ^ 2 ^ 13) :
    unitsOfMag infMag ≤ roundedUnits num den ↔ overflowUnits * den ≤ num := by
  have hexp : 2045 = 2044 + 1 := rfl
  rw [unitsOfMag_infMag, overflowUnits, hexp]
  generalize 2044 = E
  exact two_pow_le_roundedUnits_iff hden hbig

theorem overflowUnits_div_unit : (overflowUnits : ℚ) / unit = 2 ^ 1024 - 2 ^ 970 := by
  have hexp : 2044 = 970 + 1074 := rfl
  have hexp' : 1024 = 54 + 970 := rfl
  rw [div_eq_iff unit_cast_pos.ne', overflowUnits, unit, hexp, hexp']
  generalize 970 = m
  generalize 1074 = n
  push_cast
  ring

theorem isInf_round_iff {neg : Bool} {num den : Nat} (hden : 0 < den) (hbig : num / den < 2 ^ 2 ^ 13) :
    isInf (round neg num den) = true ↔ overflowUnits * den ≤ num := by
  have hle := mag_round neg num den ▸ roundMag_le num den
  rw [← unitsOfMag_infMag_le_roundedUnits_iff hden hbig, isInf, decide_eq_true_iff, le_antisymm_iff, and_iff_right hle,
    ← unitsOfMag_strictMono.le_iff_le, ← units, units_round_eq_min hden hbig, le_min_iff, and_iff_left le_rfl]

end Sys2Proof.F64

namespace Sys2Proof.F64

/-! ### Signs, and the distance from the exact result -/

/-- A magnitude with a sign. -/
def withSign (neg : Bool) (n : Nat) : Int := if neg then -(n : Int) else n

theorem toInt_eq_withSign (x : F64) : toInt x = withSign (sign x) (units x) := rfl

theorem toInt_round (neg : Bool) (num den : Nat) :
    toInt (round neg num den) = withSign neg (units (round neg num den)) := by
  rw [toInt_eq_withSign, sign_round]

theorem natAbs_withSign (neg : Bool) (n : Nat) : (withSign neg n).natAbs = n := by
  cases neg <;> simp [withSign]

@[simp] theorem withSign_zero (neg : Bool) : withSign neg 0 = 0 := by
  cases neg <;> rfl

theorem withSign_mul (neg neg' : Bool) (n n' : Nat) :
    withSign neg n * withSign neg' n' = withSign (neg != neg') (n * n') := by
  cases neg <;> cases neg' <;> simp [withSign]

/-- How far `z` is from `n / den` units, in steps of `1 / den`. -/
def distance (n : Int) (den : Nat) (z : F64) : Nat := (toInt z * den - n).natAbs

theorem abs_toRat_sub (n : Int) {den : Nat} (hden : 0 < den) (z : F64) :
    |toRat z - n / (den * unit)| = distance n den z / (den * unit) := by
  have hunit := unit_cast_pos
  have hden' : (0 : ℚ) < den := by exact_mod_cast hden
  have hsub : toRat z - n / (den * unit) = ((toInt z * den - n : Int) : ℚ) / (den * unit) := by
    rw [toRat]
    push_cast
    field_simp
  rw [hsub, abs_div, abs_of_pos (mul_pos hden' hunit), distance, Nat.cast_natAbs, Int.cast_abs]

/-- Against a result of the same sign the distance is that of the magnitudes. -/
theorem distance_of_sign_eq {neg : Bool} (num den : Nat) {z : F64} (h : sign z = neg) :
    distance (withSign neg num) den z = gap num den (units z) := by
  have hcast : ((units z * den : Nat) : Int) = units z * den := Nat.cast_mul _ _
  subst h
  rw [distance, toInt_eq_withSign, gap]
  cases sign z <;> simp only [withSign, if_true, Bool.false_eq_true, if_false, Int.neg_mul] <;> omega

/-- Against a result of the other sign the distance is the sum of the magnitudes. -/
theorem distance_of_sign_ne {neg : Bool} (num den : Nat) {z : F64} (h : sign z ≠ neg) :
    distance (withSign neg num) den z = units z * den + num := by
  have hcast : ((units z * den : Nat) : Int) = units z * den := Nat.cast_mul _ _
  obtain rfl : neg = !sign z := Bool.eq_not_of_ne h.symm
  rw [distance, toInt_eq_withSign]
  cases sign z <;> simp only [withSign, Bool.not_true, Bool.not_false, if_true, Bool.false_eq_true, if_false, Int.neg_mul] <;>
    omega

theorem gap_le_distance (neg : Bool) (num den : Nat) (z : F64) :
    gap num den (units z) ≤ distance (withSign neg num) den z := by
  by_cases h : sign z = neg
  · exact (distance_of_sign_eq num den h).ge
  · rw [distance_of_sign_ne num den h, gap]
    omega

theorem distance_round (neg : Bool) (num den : Nat) :
    distance (withSign neg num) den (round neg num den) = gap num den (units (round neg num den)) :=
  distance_of_sign_eq num den (sign_round neg num den)

theorem units_round_of_isFinite {neg : Bool} {num den : Nat} (hden : 0 < den) (hbig : num / den < 2 ^ 2 ^ 13)
    (hfin : isFinite (round neg num den) = true) : units (round neg num den) = roundedUnits num den := by
  have h := units_round_eq_min (neg := neg) hden hbig
  rw [isFinite_iff_units_lt] at hfin
  omega

/-- No finite value is nearer to the exact result than the rounded one. -/
theorem distance_round_le {neg : Bool} {num den : Nat} (hden : 0 < den) (hbig : num / den < 2 ^ 2 ^ 13)
    (hfin : isFinite (round neg num den) = true) {z : F64} (hz : isFinite z = true) :
    distance (withSign neg num) den (round neg num den) ≤ distance (withSign neg num) den z :=
  calc distance (withSign neg num) den (round neg num den) = gap num den (roundedUnits num den) := by
        rw [distance_round, units_round_of_isFinite hden hbig hfin]
    _ ≤ gap num den (units z) := gap_roundedUnits_le hden hbig (finiteMagnitude_units hz)
    _ ≤ distance (withSign neg num) den z := gap_le_distance neg num den z

/-- Only a zero result is as far from a value as from its negative. -/
theorem units_eq_zero_of_gap_eq_add {num den n : Nat} (hden : 0 < den) (hmin : gap num den n ≤ gap num den 0)
    (h : n * den + num = gap num den n) : n = 0 := by
  by_contra hne
  have hpos : 0 < n * den := Nat.mul_pos (Nat.pos_of_ne_zero hne) hden
  unfold gap at h hmin
  omega

/-- Where another finite value is as near, the rounded one ends in a 0 bit. -/
theorem getLsbD_zero_round_of_tie {neg : Bool} {num den : Nat} (hden : 0 < den) (hbig : num / den < 2 ^ 2 ^ 13)
    (hfin : isFinite (round neg num den) = true) {z : F64} (hz : isFinite z = true)
    (hne : toInt z ≠ toInt (round neg num den))
    (htie : distance (withSign neg num) den z = distance (withSign neg num) den (round neg num den)) :
    (round neg num den).getLsbD 0 = false := by
  have hunits := units_round_of_isFinite hden hbig hfin
  have hgap := gap_le_distance neg num den z
  have hnear := gap_roundedUnits_le hden hbig (finiteMagnitude_units hz)
  rw [toInt_round, hunits] at hne
  rw [distance_round, hunits] at htie
  refine getLsbD_zero_round hfin (significand_even_of_tie hden hbig (finiteMagnitude_units hz) ?_ (by omega))
  intro heq
  have hsign : sign z ≠ neg := fun hs => hne (by rw [toInt_eq_withSign, hs, heq])
  rw [distance_of_sign_ne num den hsign, heq] at htie
  have hzero := units_eq_zero_of_gap_eq_add hden (gap_roundedUnits_le hden hbig finiteMagnitude_zero) htie
  rw [toInt_eq_withSign, heq, hzero, withSign_zero, withSign_zero] at hne
  exact hne rfl

theorem not_isNaN_round (neg : Bool) (num den : Nat) : isNaN (round neg num den) = false := by
  rw [isNaN, mag_round]
  exact decide_eq_false (roundMag_le num den).not_gt

/-- The one rounding function gives, of every quotient of units, the nearest value, ties to even. -/
theorem correctlyRounded_round (neg : Bool) {num den : Nat} (hden : 0 < den) (hbig : num / den < 2 ^ 2 ^ 13) :
    Machine.CorrectlyRounded (withSign neg num / (den * unit)) (round neg num den) := by
  have hunit := unit_cast_pos
  have hden' : (0 : ℚ) < den := by exact_mod_cast hden
  have hpos := mul_pos hden' hunit
  refine ⟨?overflow, not_isNaN_round neg num den, ?nearest, ?even⟩
  case overflow =>
    rw [isInf_round_iff hden hbig, ← overflowUnits_div_unit, abs_div, abs_of_pos hpos, ← Int.cast_abs, ← Nat.cast_natAbs,
      natAbs_withSign, div_le_div_iff₀ hunit hpos, ← mul_assoc, mul_le_mul_iff_left₀ hunit]
    exact_mod_cast Iff.rfl
  case nearest =>
    intro hfin z hz
    rw [abs_toRat_sub _ hden, abs_toRat_sub _ hden, div_le_div_iff_of_pos_right hpos, Nat.cast_le]
    exact distance_round_le hden hbig hfin hz
  case even =>
    intro hfin z hz hne htie
    rw [abs_toRat_sub _ hden, abs_toRat_sub _ hden, div_left_inj' hpos.ne', Nat.cast_inj] at htie
    refine getLsbD_zero_round_of_tie hden hbig hfin hz (fun h => hne ?_) htie
    rw [toRat, toRat, h]

/-! ### The operations on finite values -/

theorem units_lt_two_pow {x : F64} (h : isFinite x = true) : units x < 2 ^ 2 ^ 12 :=
  ((isFinite_iff_units_lt x).1 h).trans unitsOfMag_infMag_lt

/-- The exact product and quotient are within the numbers the rounding function covers. -/
theorem mul_div_lt_of_lt {a b den : Nat} (ha : a < 2 ^ 2 ^ 12) (hb : b < 2 ^ 2 ^ 12) : a * b / den < 2 ^ 2 ^ 13 :=
  calc a * b / den ≤ a * b := Nat.div_le_self _ _
    _ < 2 ^ 2 ^ 12 * 2 ^ 2 ^ 12 := Nat.mul_lt_mul'' ha hb
    _ = 2 ^ 2 ^ 13 := by rw [← pow_add, ← two_mul, ← pow_succ']

theorem unit_lt_two_pow : unit < 2 ^ 2 ^ 12 := by
  unfold unit
  generalize h : 1074 = e
  exact Nat.pow_lt_pow_right Nat.one_lt_two (by omega)

/-- Settles O51: the product of the units over one unit, rounded once. -/
theorem productIsCorrectlyRounded : Obligations.ProductIsCorrectlyRounded := by
  intro a b ha hb
  have hexact : toRat a * toRat b = withSign (sign a != sign b) (units a * units b) / (unit * unit) := by
    rw [toRat, toRat, div_mul_div_comm, ← Int.cast_mul, toInt_eq_withSign a, toInt_eq_withSign b, withSign_mul]
  rw [mul_eq_round ha hb, hexact]
  exact ⟨correctlyRounded_round _ unit_pos (mul_div_lt_of_lt (units_lt_two_pow ha) (units_lt_two_pow hb)), sign_round _ _ _⟩

theorem withSign_div_withSign (neg neg' : Bool) (n n' : Nat) :
    (withSign neg n : ℚ) / withSign neg' n' = withSign (neg != neg') n / n' := by
  cases neg <;> cases neg' <;> simp [withSign, div_neg, neg_div]

theorem withSign_mul_natCast (neg : Bool) (n k : Nat) : withSign neg (n * k) = withSign neg n * k := by
  cases neg <;> simp [withSign]

/-- Settles O53: the quotient of the units, rounded once. -/
theorem quotientIsCorrectlyRounded : Obligations.QuotientIsCorrectlyRounded := by
  intro a b ha hb h0
  have hunit := unit_cast_pos.ne'
  have hexact : toRat a / toRat b = withSign (sign a != sign b) (units a * unit) / (units b * unit) := by
    rw [toRat, toRat, div_div_div_cancel_right₀ hunit, toInt_eq_withSign, toInt_eq_withSign, withSign_div_withSign,
      withSign_mul_natCast, Int.cast_mul, Int.cast_natCast, mul_div_mul_right _ _ hunit]
  rw [div_eq_round ha hb h0, hexact]
  exact ⟨correctlyRounded_round _ (units_pos h0) (mul_div_lt_of_lt (units_lt_two_pow ha) unit_lt_two_pow), sign_round _ _ _⟩

/-! ### Sums and differences -/

/-- The sign of a rounded whole number of units: an exact zero has the given one. -/
def sumSign (zeroNeg : Bool) (n : Int) : Bool := if n = 0 then zeroNeg else decide (n < 0)

theorem withSign_sumSign (zeroNeg : Bool) (n : Int) : withSign (sumSign zeroNeg n) n.natAbs = n := by
  unfold withSign sumSign
  split_ifs <;> grind

/-- An exact zero is rounded like any other whole number of units. -/
theorem roundInt_eq_round (zeroNeg : Bool) (n : Int) : roundInt zeroNeg n = round (sumSign zeroNeg n) n.natAbs 1 := by
  unfold roundInt sumSign
  split
  · rename_i h
    rw [h]
    cases zeroNeg <;> decide +kernel
  · rfl

theorem sign_roundInt (zeroNeg : Bool) (n : Int) : sign (roundInt zeroNeg n) = sumSign zeroNeg n := by
  rw [roundInt_eq_round, sign_round]

theorem sign_roundInt_iff {zeroNeg : Bool} {n : Int} (h : n ≠ 0) : sign (roundInt zeroNeg n) = true ↔ n < 0 := by
  rw [sign_roundInt, sumSign, if_neg h, decide_eq_true_iff]

theorem sign_roundInt_of_eq_zero {zeroNeg : Bool} {n : Int} (h : n = 0) : sign (roundInt zeroNeg n) = zeroNeg := by
  rw [sign_roundInt, sumSign, if_pos h]

theorem correctlyRounded_roundInt (zeroNeg : Bool) {n : Int} (h : n.natAbs < 2 ^ 2 ^ 13) :
    Machine.CorrectlyRounded ((n : ℚ) / unit) (roundInt zeroNeg n) := by
  have hround := correctlyRounded_round (sumSign zeroNeg n) (num := n.natAbs) one_pos (by rwa [Nat.div_one])
  rwa [withSign_sumSign, Nat.cast_one, one_mul, ← roundInt_eq_round] at hround

/-- What a sum is: the exact one rounded, with its sign, and the conjunction of the signs for an exact zero (R11). -/
theorem add_correctlyRounded {a b : F64} (ha : isFinite a = true) (hb : isFinite b = true) :
    Machine.CorrectlyRounded (toRat a + toRat b) (add a b) ∧
      (toRat a + toRat b ≠ 0 → (sign (add a b) = true ↔ toRat a + toRat b < 0)) ∧
      (toRat a + toRat b = 0 → sign (add a b) = (sign a && sign b)) := by
  have hunit := unit_cast_pos
  have hzero : toRat a + toRat b = 0 ↔ toInt a + toInt b = 0 := by
    rw [toRat_add, div_eq_zero_iff, or_iff_left hunit.ne', Int.cast_eq_zero]
  have hneg : toRat a + toRat b < 0 ↔ toInt a + toInt b < 0 := by
    rw [toRat_add, div_lt_iff₀ hunit, zero_mul, Int.cast_lt_zero]
  rw [add_eq_roundInt ha hb, hneg, ne_eq, hzero, toRat_add]
  exact ⟨correctlyRounded_roundInt _ (natAbs_toInt_add_lt ha hb), sign_roundInt_iff, sign_roundInt_of_eq_zero⟩

/-- Settles O52: a difference is the sum with the negated second operand. -/
theorem sumIsCorrectlyRounded : Obligations.SumIsCorrectlyRounded := by
  intro a b ha hb
  obtain ⟨hsum, hsumSign, hsumZero⟩ := add_correctlyRounded ha hb
  obtain ⟨hdiff, hdiffSign, hdiffZero⟩ := add_correctlyRounded ha (b := neg b) (by rwa [isFinite_neg])
  rw [toRat_neg, ← sub_eq_add_neg] at hdiff hdiffSign hdiffZero
  rw [sign_neg] at hdiffZero
  exact ⟨hsum, hdiff, hsumSign, hdiffSign, hsumZero, hdiffZero⟩

/-! ### Conversions to and from whole numbers (00_scope.md R12) -/

/-- A finite value is below 2^53 or is a whole number. -/
theorem units_lt_or_unit_dvd {x : F64} (hx : isFinite x = true) : units x < 2 ^ 53 * unit ∨ unit ∣ units x := by
  obtain ⟨c, e, hc, -, h⟩ := finiteMagnitude_units hx
  rw [h, unit]
  generalize 1074 = k
  rcases Nat.lt_or_ge e k with he | he
  · exact .inl (Nat.mul_lt_mul'' hc (Nat.pow_lt_pow_right Nat.one_lt_two he))
  · exact .inr (Dvd.dvd.mul_left (pow_dvd_pow 2 he) c)

/-- The whole number at or below a finite value is a value. -/
theorem finiteMagnitude_floor {x : F64} (hx : isFinite x = true) :
    FiniteMagnitude (toInt x / (unit : Int) * (unit : Int)).natAbs := by
  have hpos : (0 : Int) < unit := by exact_mod_cast unit_pos
  rcases units_lt_or_unit_dvd hx with h | h
  · have habs := natAbs_toInt x
    have hhigh : toInt x / (unit : Int) ≤ 2 ^ 53 := Int.ediv_le_of_le_mul hpos (by omega)
    have hlow : -2 ^ 53 ≤ toInt x / (unit : Int) := (Int.le_ediv_iff_mul_le hpos).2 (by omega)
    rw [Int.natAbs_mul, Int.natAbs_natCast]
    exact finiteMagnitude_mul_unit (by omega)
  · have hdvd : (unit : Int) ∣ toInt x := Int.natCast_dvd.2 (by rwa [natAbs_toInt])
    rw [Int.ediv_mul_cancel hdvd, natAbs_toInt]
    exact finiteMagnitude_units hx

theorem floor_eq_roundInt {x : F64} (hx : isFinite x = true) :
    floor x = roundInt (sign x) (toInt x / (unit : Int) * (unit : Int)) := if_pos hx

theorem toInt_floor {x : F64} (hx : isFinite x = true) : toInt (floor x) = toInt x / (unit : Int) * (unit : Int) := by
  rw [floor_eq_roundInt hx, toInt_roundInt_eq _ (finiteMagnitude_floor hx)]

theorem isFinite_floor {x : F64} (hx : isFinite x = true) : isFinite (floor x) = true := by
  rw [floor_eq_roundInt hx]
  exact isFinite_roundInt _ (finiteMagnitude_floor hx) le_rfl

theorem toRat_floor {x : F64} (hx : isFinite x = true) : toRat (floor x) = (⌊toRat x⌋ : ℚ) := by
  have hfloor : ⌊toRat x⌋ = toInt x / (unit : Int) := Rat.floor_intCast_div_natCast _ _
  rw [hfloor, toRat, toInt_floor hx, Int.cast_mul, Int.cast_natCast, mul_div_cancel_right₀ _ unit_cast_pos.ne']

theorem mag_eq_zero_of_isZero {x : F64} (h : isZero x = true) : mag x = 0 := of_decide_eq_true h

theorem floor_of_isZero {x : F64} (h : isZero x = true) : floor x = x := by
  have hmag := mag_eq_zero_of_isZero h
  have htoInt : toInt x = 0 := by rw [toInt_eq_withSign, units_eq_zero_iff.2 hmag, withSign_zero]
  have hfin : isFinite x = true := (isFinite_iff x).2 (by rw [hmag]; decide)
  rw [floor_eq_roundInt hfin, htoInt, Int.zero_ediv, Int.zero_mul]
  exact (congrArg (ofMag (sign x)) hmag.symm).trans (ofMag_sign_mag x)

/-- The nearest whole number to a magnitude, halves rounded up. -/
theorem floor_div_add_half (n : Nat) {u : Nat} (hu : 0 < u) :
    ⌊(n : ℚ) / u + 1 / 2⌋ = (((2 * n + u) / (2 * u) : Nat) : Int) := by
  have hu' : (u : ℚ) ≠ 0 := by exact_mod_cast hu.ne'
  have hsum : (n : ℚ) / u + 1 / 2 = ((2 * n + u : Nat) : ℚ) / ((2 * u : Nat) : ℚ) := by
    push_cast
    field_simp
  rw [hsum]
  exact Rat.floor_natCast_div_natCast _ _

theorem roundAway_eq_withSign (x : F64) : roundAway x = withSign (sign x) ((2 * units x + unit) / (2 * unit)) := rfl

theorem toRat_eq_withSign (x : F64) : toRat x = (withSign (sign x) (units x) : ℚ) / unit := rfl

/-- Halves go away from zero, so the magnitude alone is rounded. -/
theorem roundAway_eq_floor (x : F64) :
    roundAway x = if 0 ≤ toRat x then ⌊toRat x + 1 / 2⌋ else -⌊-toRat x + 1 / 2⌋ := by
  have hunit := unit_cast_pos
  have hround := floor_div_add_half (units x) unit_pos
  have hnonneg : (0 : ℚ) ≤ units x / unit := div_nonneg (Nat.cast_nonneg _) hunit.le
  rw [roundAway_eq_withSign, toRat_eq_withSign, withSign, withSign, ← hround]
  split
  · rw [Int.cast_neg, Int.cast_natCast, neg_div, neg_neg]
    split
    · rename_i h
      have hzero : (units x : ℚ) / unit = 0 := le_antisymm (neg_nonneg.1 h) hnonneg
      rw [hzero]
      norm_num
    · rfl
  · rw [Int.cast_natCast, if_pos hnonneg]

/-- A quotient that is a value is exact. -/
theorem units_round_mul {neg : Bool} {n den : Nat} (hden : 0 < den) (hn : FiniteMagnitude n) :
    units (round neg (n * den) den) = n := by
  have hbig : n * den / den < 2 ^ 2 ^ 13 := by
    rw [Nat.mul_div_cancel _ hden]
    calc n < 2 ^ 2 ^ 12 := hn.lt_unitsOfMag_infMag.trans unitsOfMag_infMag_lt
      _ ≤ 2 ^ 2 ^ 13 := Nat.pow_le_pow_right (by norm_num) (by norm_num)
  exact le_antisymm (units_round_le hden hn le_rfl) (le_units_round hden hn hbig le_rfl)

/-- The whole numbers below 2^53 are values. -/
theorem isFinite_toRat_ofNat {n : Nat} (hn : n < 2 ^ 53) : isFinite (ofNat n) = true ∧ toRat (ofNat n) = (n : ℚ) := by
  have hvalue := finiteMagnitude_mul_unit hn.le
  have hunits : units (ofNat n) = n * unit := by
    have h := units_round_mul (neg := false) one_pos hvalue
    rwa [Nat.mul_one] at h
  have hsign : sign (ofNat n) = false := sign_round _ _ _
  refine ⟨isFinite_round one_pos hvalue (Nat.mul_one _).ge, ?_⟩
  rw [toRat, toInt_of_sign_false hsign, hunits, Int.cast_natCast, Nat.cast_mul, mul_div_cancel_right₀ _ unit_cast_pos.ne']

/-- Settles O54: the floor and the whole numbers below 2^53 are values, so that rounding keeps them. -/
theorem integerConversionsAreExact : Obligations.IntegerConversionsAreExact :=
  ⟨fun x hx => ⟨isFinite_floor hx, toRat_floor hx, floor_of_isZero, roundAway_eq_floor x⟩,
    fun _ => isFinite_toRat_ofNat⟩

end Sys2Proof.F64

/-! Arithmetic on NaNs, infinities and zero divisors (00_scope.md R11, IEEE 754). -/

namespace Sys2Proof.F64

@[simp] theorem isNaN_nan : isNaN nan = true := by decide

@[simp] theorem isNaN_neg (x : F64) : isNaN (neg x) = isNaN x := by simp [isNaN]

@[simp] theorem isInf_neg (x : F64) : isInf (neg x) = isInf x := by simp [isInf]

@[simp] theorem sign_ofMag_infMag (neg : Bool) : sign (ofMag neg infMag) = neg := sign_ofMag neg infMag_lt

@[simp] theorem isInf_ofMag_infMag (neg : Bool) : isInf (ofMag neg infMag) = true := by
  simp [isInf, mag_ofMag neg infMag_lt]

@[simp] theorem sign_ofMag_zero (neg : Bool) : sign (ofMag neg 0) = neg := sign_ofMag neg (by norm_num)

@[simp] theorem isZero_ofMag_zero (neg : Bool) : isZero (ofMag neg 0) = true := by
  simp [isZero, mag_ofMag neg (m := 0) (by norm_num)]

theorem not_isNaN_of_isInf {x : F64} (h : isInf x = true) : isNaN x = false := by
  simp only [isInf, decide_eq_true_eq] at h
  simp [isNaN, h]

theorem not_isZero_of_isInf {x : F64} (h : isInf x = true) : isZero x = false := by
  simp only [isInf, decide_eq_true_eq] at h
  rw [isZero, h]
  decide

theorem isFinite_of_isZero {x : F64} (h : isZero x = true) : isFinite x = true := by
  rw [isFinite_iff, mag_eq_zero_of_isZero h]
  decide

/-! ### Sums and differences -/

theorem add_of_isNaN {a b : F64} (h : isNaN a = true ∨ isNaN b = true) : add a b = nan := by
  rcases h with h | h <;> simp [add, h]

theorem add_of_isInf_left {a b : F64} (ha : isInf a = true) (hb : isFinite b = true) : add a b = a := by
  simp [add, ha, not_isNaN_of_isInf ha, not_isNaN_of_isFinite hb, not_isInf_of_isFinite hb]

theorem add_of_isInf_right {a b : F64} (ha : isFinite a = true) (hb : isInf b = true) : add a b = b := by
  simp [add, hb, not_isNaN_of_isInf hb, not_isNaN_of_isFinite ha, not_isInf_of_isFinite ha]

theorem add_of_isInf_isInf {a b : F64} (ha : isInf a = true) (hb : isInf b = true) :
    add a b = if sign a = sign b then a else nan := by
  by_cases h : sign a = sign b <;> simp [add, ha, hb, not_isNaN_of_isInf ha, not_isNaN_of_isInf hb, h]

/-- Infinities of one sign add up to that infinity and have no difference; of two signs it is the other way round. -/
theorem add_sub_of_isInf_isInf {a b : F64} (ha : isInf a = true) (hb : isInf b = true) :
    if sign a = sign b then add a b = a ∧ isNaN (sub a b) = true else isNaN (add a b) = true ∧ sub a b = a := by
  rw [sub, add_of_isInf_isInf ha hb, add_of_isInf_isInf ha ((isInf_neg b).trans hb), sign_neg]
  by_cases h : sign a = sign b <;> simp [h]

/-! ### Products -/

theorem mul_of_isNaN {a b : F64} (h : isNaN a = true ∨ isNaN b = true) : mul a b = nan := by
  rcases h with h | h <;> simp [mul, h]

theorem mul_of_isInf_of_isZero {a b : F64}
    (h : isInf a = true ∧ isZero b = true ∨ isZero a = true ∧ isInf b = true) : mul a b = nan := by
  rcases h with ⟨ha, hb⟩ | ⟨ha, hb⟩
  · simp [mul, ha, hb]
  · simp [mul, ha, hb]

theorem mul_of_isInf {a b : F64} (h : isInf a = true ∧ isNaN b = false ∧ isZero b = false ∨
    isNaN a = false ∧ isZero a = false ∧ isInf b = true) : mul a b = ofMag (sign a != sign b) infMag := by
  rcases h with ⟨ha, hb, hb0⟩ | ⟨ha, ha0, hb⟩
  · simp [mul, ha, not_isNaN_of_isInf ha, not_isZero_of_isInf ha, hb, hb0]
  · simp [mul, hb, not_isNaN_of_isInf hb, not_isZero_of_isInf hb, ha, ha0]

/-! ### Quotients -/

theorem div_of_isNaN {a b : F64} (h : isNaN a = true ∨ isNaN b = true) : div a b = nan := by
  rcases h with h | h <;> simp [div, h]

theorem div_of_isInf_isInf {a b : F64} (ha : isInf a = true) (hb : isInf b = true) : div a b = nan := by
  simp [div, ha, hb]

theorem div_of_isZero_isZero {a b : F64} (ha : isZero a = true) (hb : isZero b = true) : div a b = nan := by
  simp [div, not_isInf_of_isFinite (isFinite_of_isZero ha), not_isInf_of_isFinite (isFinite_of_isZero hb), ha, hb]

theorem div_of_isInf_or_isZero {a b : F64} (h : isInf a = true ∧ isFinite b = true ∨
    isFinite a = true ∧ isZero a = false ∧ isZero b = true) : div a b = ofMag (sign a != sign b) infMag := by
  rcases h with ⟨ha, hb⟩ | ⟨ha, ha0, hb0⟩
  · simp [div, ha, not_isNaN_of_isInf ha, not_isNaN_of_isFinite hb, not_isInf_of_isFinite hb]
  · have hb := isFinite_of_isZero hb0
    simp [div, not_isNaN_of_isFinite ha, not_isInf_of_isFinite ha, ha0, not_isNaN_of_isFinite hb,
      not_isInf_of_isFinite hb, hb0]

theorem div_of_isInf_right {a b : F64} (ha : isFinite a = true) (hb : isInf b = true) :
    div a b = ofMag (sign a != sign b) 0 := by
  simp [div, not_isNaN_of_isFinite ha, not_isInf_of_isFinite ha, not_isNaN_of_isInf hb, hb]

/-- Settles O59: the branches of the four operations before the rounding. -/
theorem arithmeticOnSpecialValues : Obligations.ArithmeticOnSpecialValues := by
  intro a b
  refine ⟨?nan, ?infLeft, ?infRight, ?infInf, ?mulNaN, ?mulInf, ?divNaN, ?divInf, ?divZero⟩
  case nan =>
    intro h
    have hneg : isNaN a = true ∨ isNaN (neg b) = true := by rwa [isNaN_neg]
    rw [sub, add_of_isNaN h, add_of_isNaN hneg, mul_of_isNaN h, div_of_isNaN h]
    exact ⟨rfl, rfl, rfl, rfl⟩
  case infLeft =>
    intro ha hb
    exact ⟨add_of_isInf_left ha hb, add_of_isInf_left ha ((isFinite_neg b).trans hb)⟩
  case infRight =>
    intro ha hb
    have hneg := (isInf_neg b).trans hb
    rw [sub, add_of_isInf_right ha hb, add_of_isInf_right ha hneg]
    exact ⟨rfl, hneg, sign_neg b⟩
  case infInf =>
    intro ha hb
    rw [div_of_isInf_isInf ha hb]
    exact ⟨add_sub_of_isInf_isInf ha hb, isNaN_nan⟩
  case mulNaN =>
    intro h
    rw [mul_of_isInf_of_isZero h, isNaN_nan]
  case mulInf =>
    intro h
    rw [mul_of_isInf h]
    exact ⟨isInf_ofMag_infMag _, sign_ofMag_infMag _⟩
  case divNaN =>
    intro ha hb
    rw [div_of_isZero_isZero ha hb, isNaN_nan]
  case divInf =>
    intro h
    rw [div_of_isInf_or_isZero h]
    exact ⟨isInf_ofMag_infMag _, sign_ofMag_infMag _⟩
  case divZero =>
    intro ha hb
    rw [div_of_isInf_right ha hb]
    exact ⟨isZero_ofMag_zero _, sign_ofMag_zero _⟩

end Sys2Proof.F64

/-! The parameter `SIN` and the sign of the real sine (00_scope.md R8, P1 to P4; 41_synthesizer.md R108). -/

namespace Sys2Proof.Machine

open Sys2Proof

/-! ### What `SIN` answers -/

theorem sin_of_isZero {x : F64} (h : F64.isZero x = true) : sin x = x := by
  simp [sin, F64.isFinite_of_isZero h, h]

theorem sin_of_not_isFinite {x : F64} (h : F64.isFinite x = false) : sin x = F64.nan := by
  simp [sin, h]

theorem sin_of_not_isZero {x : F64} (hfin : F64.isFinite x = true) (h : F64.isZero x = false) :
    sin x = F64.ofMag (sineNegative x) (sineMag x) := by
  simp [sin, hfin, h]

/-- The magnitude is free between the smallest nonzero value and 1.0 (P2, P3). -/
theorem sineMag_bounds (x : F64) : 1 ≤ sineMag x ∧ sineMag x ≤ F64.oneMag :=
  ⟨le_max_left _ _, max_le (by decide) (min_le_right _ _)⟩

theorem sineMag_lt (x : F64) : sineMag x < 2 ^ 63 := (sineMag_bounds x).2.trans_lt (by decide)

/-- The sine of a finite nonzero value has the computed sign. -/
theorem sign_sin {x : F64} (hfin : F64.isFinite x = true) (h : F64.isZero x = false) :
    F64.sign (sin x) = sineNegative x := by
  rw [sin_of_not_isZero hfin h, F64.sign_ofMag _ (sineMag_lt x)]

theorem mag_sin {x : F64} (hfin : F64.isFinite x = true) (h : F64.isZero x = false) : F64.mag (sin x) = sineMag x := by
  rw [sin_of_not_isZero hfin h, F64.mag_ofMag _ (sineMag_lt x)]

theorem isZero_sin {x : F64} (hfin : F64.isFinite x = true) (h : F64.isZero x = false) : F64.isZero (sin x) = false := by
  have hpos := (sineMag_bounds x).1
  rw [F64.isZero, mag_sin hfin h]
  exact decide_eq_false (by omega)

theorem mag_sin_le_oneMag {x : F64} (hfin : F64.isFinite x = true) : F64.mag (sin x) ≤ F64.oneMag := by
  cases h : F64.isZero x with
  | true =>
    rw [sin_of_isZero h, F64.mag_eq_zero_of_isZero h]
    exact Nat.zero_le _
  | false => exact (mag_sin hfin h).trans_le (sineMag_bounds x).2

theorem isFinite_sin {x : F64} (hfin : F64.isFinite x = true) : F64.isFinite (sin x) = true :=
  (F64.isFinite_iff _).2 ((mag_sin_le_oneMag hfin).trans_lt (by decide))

/-- Settles O56: each property is one branch of `SIN`, or a bound of its magnitude. -/
theorem sinHasListedProperties : Obligations.SinHasListedProperties := by
  refine ⟨sin_of_isZero (by decide), sin_of_isZero (by decide), fun x => ⟨fun hfin => ?_, fun hfin => ?_⟩⟩
  · obtain ⟨hge, hle⟩ := F64.between_negOne_one (mag_sin_le_oneMag hfin)
    exact ⟨isFinite_sin hfin, hge, hle, isZero_sin hfin⟩
  · rw [sin_of_not_isFinite hfin, F64.isNaN_nan]

end Sys2Proof.Machine

namespace Sys2Proof.F64

/-- A finite nonzero value is on the side of zero that its sign bit names. -/
theorem lt_zero_of_sign {x : F64} (hfin : isFinite x = true) (h : isZero x = false) :
    lt zero x = !sign x ∧ lt x zero = sign x := by
  have hnan := not_isNaN_of_isFinite hfin
  have hzero : key zero = 0 ∧ isNaN zero = false := by decide
  have hmag : mag x ≠ 0 := of_decide_eq_false h
  have hkey : key x = if sign x then -(mag x : Int) else mag x := rfl
  rw [lt, lt, hzero.1, hkey]
  cases sign x <;> simp [hnan, hzero.2] <;> omega

theorem signum_of_not_isZero {x : F64} (hfin : isFinite x = true) (h : isZero x = false) :
    signum x = if sign x then negOne else one := by
  obtain ⟨hpos, hneg⟩ := lt_zero_of_sign hfin h
  rw [signum, not_isNaN_of_isFinite hfin, hpos, hneg]
  cases sign x <;> rfl

theorem signum_of_isZero {x : F64} (h : isZero x = true) : signum x = zero := by
  have hzero : key zero = 0 := by decide
  have hkey : key x = 0 := by simp [key, mag_eq_zero_of_isZero h]
  simp [signum, not_isNaN_of_isFinite (isFinite_of_isZero h), lt, hzero, hkey]

end Sys2Proof.F64

namespace Sys2Proof.Machine

open Sys2Proof

/-- `SIGN(SIN(x))` for every `x`, from the sign alone (log 9). -/
theorem sineSign_eq_signum_sin (x : F64) : sineSign x = F64.signum (sin x) := by
  unfold sineSign
  split_ifs with hfin hzero hneg
  · rw [sin_of_isZero hzero, F64.signum_of_isZero hzero]
  · rw [F64.signum_of_not_isZero (isFinite_sin hfin) (isZero_sin hfin (by simpa using hzero)),
      sign_sin hfin (by simpa using hzero), if_pos hneg]
  · rw [F64.signum_of_not_isZero (isFinite_sin hfin) (isZero_sin hfin (by simpa using hzero)),
      sign_sin hfin (by simpa using hzero), if_neg hneg]
  · rw [sin_of_not_isFinite (by simpa using hfin)]
    rfl

/-- Of the four answers only that of a zero argument is `+0.0`. -/
theorem sineSign_eq_zero_iff (x : F64) : sineSign x = F64.zero ↔ F64.isZero x = true := by
  have hne : F64.nan ≠ F64.zero ∧ F64.negOne ≠ F64.zero ∧ F64.one ≠ F64.zero := by decide
  have hzero : F64.isZero x = true → F64.isFinite x = true := F64.isFinite_of_isZero
  unfold sineSign
  split_ifs <;> simp_all

/-- Settles O25: the generator is `sineSign` of the phase argument. -/
theorem squareWaveIsSignOfSine : Obligations.SquareWaveIsSignOfSine :=
  fun f t => ⟨sineSign_eq_signum_sin (phaseArg f t), sineSign_eq_zero_iff (phaseArg f t)⟩

end Sys2Proof.Machine

/-! The sign of `SIN` is that of the real sine (00_scope.md R8, P3). -/

namespace Sys2Proof.Machine

open Sys2Proof

/-- The table's count of the whole multiples of pi below a magnitude (log 8). -/
def multiplesOfPi (x : F64) : Nat := F64.units x * 2 ^ 176 / piScaled

/-- The table counts the whole multiples of pi below `|x|` right. -/
def CountsRight (x : F64) : Prop := ⌊|((F64.toRat x : ℚ) : ℝ)| / Real.pi⌋ = (multiplesOfPi x : Int)

/-- Between two multiples of pi the sine has the sign of the number of the lower one. -/
theorem sin_sign_between_multiples {y : ℝ} {k : Nat} (hlow : k * Real.pi < y) (hhigh : y < (k + 1) * Real.pi) :
    if k % 2 = 1 then Real.sin y < 0 else 0 < Real.sin y := by
  have hpos : 0 < Real.sin (y - k * Real.pi) := Real.sin_pos_of_pos_of_lt_pi (by linarith) (by linarith)
  rw [Real.sin_sub_nat_mul_pi] at hpos
  split
  · rename_i hodd
    rw [(Nat.odd_iff.2 hodd).neg_one_pow] at hpos
    linarith
  · rename_i heven
    rwa [(Nat.even_iff.2 (by omega)).neg_one_pow, one_mul] at hpos

/-- No nonzero rational number is a multiple of pi. -/
theorem natCast_mul_pi_ne_ratCast {q : ℚ} (hq : q ≠ 0) (k : Nat) : k * Real.pi ≠ (q : ℝ) := by
  rcases Nat.eq_zero_or_pos k with rfl | hk
  · rw [Nat.cast_zero, zero_mul]
    exact (Rat.cast_ne_zero.2 hq).symm
  · exact (irrational_pi.natCast_mul hk.ne').ne_rat q

theorem toRat_ne_zero {x : F64} (h : F64.isZero x = false) : F64.toRat x ≠ 0 := by
  have hunits := (F64.units_pos h).ne'
  rw [F64.toRat_eq_withSign]
  refine div_ne_zero (Int.cast_ne_zero.2 fun hz => hunits ?_) F64.unit_cast_pos.ne'
  rw [← F64.natAbs_withSign (F64.sign x) (F64.units x), hz, Int.natAbs_zero]

/-- Where the table counts right, the sine of the magnitude has the sign of the count. -/
theorem sin_abs_sign {x : F64} (h : F64.isZero x = false) (hcount : CountsRight x) :
    if multiplesOfPi x % 2 = 1 then Real.sin |((F64.toRat x : ℚ) : ℝ)| < 0 else 0 < Real.sin |((F64.toRat x : ℚ) : ℝ)| := by
  have hne := natCast_mul_pi_ne_ratCast (abs_ne_zero.2 (toRat_ne_zero h)) (multiplesOfPi x)
  rw [CountsRight, Int.floor_eq_iff, le_div_iff₀ Real.pi_pos, div_lt_iff₀ Real.pi_pos, Int.cast_natCast] at hcount
  rw [Rat.cast_abs] at hne
  exact sin_sign_between_multiples (lt_of_le_of_ne hcount.1 hne) hcount.2

/-- A value is its magnitude, or the negative of it when the sign bit is set. -/
theorem toRat_eq_abs (x : F64) : F64.toRat x = if F64.sign x then -|F64.toRat x| else |F64.toRat x| := by
  have hnonneg : (0 : ℚ) ≤ F64.units x / F64.unit := div_nonneg (Nat.cast_nonneg _) F64.unit_cast_pos.le
  rw [F64.toRat_eq_withSign, F64.withSign]
  split
  · rw [Int.cast_neg, Int.cast_natCast, neg_div, abs_neg, abs_of_nonneg hnonneg]
  · rw [Int.cast_natCast, abs_of_nonneg hnonneg]

/-- The sine is odd, so the sign bit turns the sign of the count (P3). -/
theorem realSine_sign {x : F64} (h : F64.isZero x = false) (hcount : CountsRight x) :
    if sineNegative x then Real.sin ((F64.toRat x : ℚ) : ℝ) < 0 else 0 < Real.sin ((F64.toRat x : ℚ) : ℝ) := by
  have hsign := sin_abs_sign h hcount
  have hneg : sineNegative x = (F64.sign x != decide (multiplesOfPi x % 2 = 1)) := rfl
  rw [hneg, toRat_eq_abs x]
  cases F64.sign x <;> by_cases hodd : multiplesOfPi x % 2 = 1 <;> simpa [hodd] using hsign

/-- Settles O60: `SIN` has the sign of the count, and so has the real sine. -/
theorem sinSignFollowsMultiplesOfPi : Obligations.SinSignFollowsMultiplesOfPi := by
  intro x hfin h hcount
  have hreal := realSine_sign h hcount
  obtain ⟨hpos, hneg⟩ := F64.lt_zero_of_sign (isFinite_sin hfin) (isZero_sin hfin h)
  rw [sign_sin hfin h] at hpos hneg
  cases hs : sineNegative x with
  | true => exact .inr ⟨by simpa [hs] using hreal, hneg.trans hs⟩
  | false => exact .inl ⟨by simpa [hs] using hreal, by rw [hpos, hs]; rfl⟩

/-! ### The table counts right up to 6 -/

theorem abs_toRat (x : F64) : |F64.toRat x| = F64.units x / F64.unit := by
  rw [F64.toRat_eq_withSign, abs_div, abs_of_pos F64.unit_cast_pos, ← Int.cast_abs, ← Nat.cast_natAbs, F64.natAbs_withSign]

theorem units_le_of_abs_toRat_le {x : F64} {n : Nat} (h : |F64.toRat x| ≤ n) : F64.units x ≤ n * F64.unit := by
  rw [abs_toRat, div_le_iff₀ F64.unit_cast_pos] at h
  exact_mod_cast h

/-- The largest value below pi (V-SQ2). -/
def belowPi : F64 := 0x400921FB54442D18

/-- The smallest value above pi (V-SQ2). -/
def abovePi : F64 := 0x400921FB54442D19

theorem toRat_belowPi : F64.toRat belowPi = 884279719003555 / 281474976710656 := by decide +kernel

theorem toRat_abovePi : F64.toRat abovePi = 7074237752028441 / 2251799813685248 := by decide +kernel

theorem abs_belowPi_lt_pi : |((F64.toRat belowPi : ℚ) : ℝ)| < Real.pi := by
  rw [toRat_belowPi, abs_of_pos (by norm_num)]
  refine lt_trans ?_ Real.pi_gt_d20
  norm_num

theorem pi_lt_abs_abovePi : Real.pi < |((F64.toRat abovePi : ℚ) : ℝ)| := by
  rw [toRat_abovePi, abs_of_pos (by norm_num)]
  refine Real.pi_lt_d20.trans ?_
  norm_num

theorem units_belowPi_lt : F64.units belowPi * 2 ^ 176 < piScaled := by decide +kernel

theorem piScaled_le_units_abovePi : piScaled ≤ F64.units abovePi * 2 ^ 176 := by decide +kernel

theorem six_units_lt : 6 * F64.unit * 2 ^ 176 < 2 * piScaled := by decide +kernel

theorem abs_toRat_mono {x y : F64} (h : F64.units x ≤ F64.units y) :
    |((F64.toRat x : ℚ) : ℝ)| ≤ |((F64.toRat y : ℚ) : ℝ)| := by
  rw [← Rat.cast_abs, ← Rat.cast_abs, Rat.cast_le, abs_toRat, abs_toRat, div_le_div_iff_of_pos_right F64.unit_cast_pos,
    Nat.cast_le]
  exact h

theorem countsRight_of_between {x : F64} {k : Nat} (hk : multiplesOfPi x = k)
    (hlow : k * Real.pi ≤ |((F64.toRat x : ℚ) : ℝ)|) (hhigh : |((F64.toRat x : ℚ) : ℝ)| < (k + 1) * Real.pi) :
    CountsRight x := by
  rw [CountsRight, hk, Int.floor_eq_iff, le_div_iff₀ Real.pi_pos, div_lt_iff₀ Real.pi_pos, Int.cast_natCast]
  exact ⟨hlow, hhigh⟩

/-- Up to the largest value below pi there is no whole multiple of pi, and the table counts none. -/
theorem countsRight_of_le_belowPi {x : F64} (h : F64.units x ≤ F64.units belowPi) : CountsRight x := by
  have hcount : multiplesOfPi x = 0 :=
    Nat.div_eq_of_lt ((Nat.mul_le_mul_right _ h).trans_lt units_belowPi_lt)
  have hlt := (abs_toRat_mono h).trans_lt abs_belowPi_lt_pi
  exact countsRight_of_between hcount (by simp) (by simpa using hlt)

/-- From the smallest value above pi up to 6 there is one whole multiple of pi, and the table counts one. -/
theorem countsRight_of_abovePi_le {x : F64} (h : F64.units abovePi ≤ F64.units x) (h6 : |F64.toRat x| ≤ 6) :
    CountsRight x := by
  have hlow := piScaled_le_units_abovePi.trans (Nat.mul_le_mul_right _ h)
  have hhigh := (Nat.mul_le_mul_right (2 ^ 176) (units_le_of_abs_toRat_le (n := 6) h6)).trans_lt six_units_lt
  have hcount : multiplesOfPi x = 1 := Nat.div_eq_of_lt_le (by rwa [one_mul]) hhigh
  have hpi := pi_lt_abs_abovePi.trans_le (abs_toRat_mono h)
  have hsix : |((F64.toRat x : ℚ) : ℝ)| ≤ 6 := by exact_mod_cast h6
  have hpi3 := Real.pi_gt_three
  exact countsRight_of_between hcount (by simpa using hpi.le) (by push_cast; linarith)

theorem countsRight_of_abs_le_six {x : F64} (h6 : |F64.toRat x| ≤ 6) : CountsRight x := by
  rcases Nat.lt_or_ge (F64.mag belowPi) (F64.mag x) with h | h
  · exact countsRight_of_abovePi_le (F64.unitsOfMag_mono h) h6
  · exact countsRight_of_le_belowPi (F64.unitsOfMag_mono h)

/-- Settles O57: up to 6 only the first multiple of pi matters, and the values next to pi are on their sides of it. -/
theorem sinHasSignOfRealSine : Obligations.SinHasSignOfRealSine :=
  fun x hfin h h6 => sinSignFollowsMultiplesOfPi x hfin h (countsRight_of_abs_le_six h6)

end Sys2Proof.Machine

/-! Division by the peak, what a `NORM` leaves, and the range of the quantized values (42_quantizer.md R142, R144, R145,
R152). -/

namespace Sys2Proof.F64

theorem mag_one : mag one = oneMag := by decide

theorem units_one : units one = unit := by decide +kernel

theorem mag_eq_oneMag_of_units_eq {x : F64} (h : units x = unit) : mag x = oneMag := by
  rw [← mag_one, ← units_inj_iff, h, units_one]

theorem eq_one_or_negOne {x : F64} (h : mag x = oneMag) : x = if sign x then negOne else one := by
  refine ext_sign_mag ?_ ?_
  · cases sign x <;> decide
  · rw [h]
    cases sign x <;> decide

theorem mag_of_eq_one_or_negOne {x : F64} (h : x = one ∨ x = negOne) : mag x = oneMag := by
  rcases h with rfl | rfl <;> decide

/-- A value above `+0.0` has a clear sign bit and is no zero. -/
theorem positive_of_zero_lt {p : F64} (h : lt zero p = true) : sign p = false ∧ isZero p = false := by
  have hkey : key zero < key p := by
    simp only [lt, Bool.and_eq_true, decide_eq_true_eq] at h
    exact h.2
  have hzero : key zero = 0 := by decide
  rw [hzero, key] at hkey
  cases hs : sign p
  · rw [hs, if_neg Bool.false_ne_true] at hkey
    exact ⟨rfl, decide_eq_false (by omega)⟩
  · rw [hs, if_pos rfl] at hkey
    omega

/-- A magnitude at most a finite one with a clear sign bit. -/
theorem mag_le_of_abs_le {x p : F64} (hs : sign p = false) (h : le (abs x) p = true) : mag x ≤ mag p := by
  simp only [le, Bool.and_eq_true, decide_eq_true_eq] at h
  simpa [key, hs] using h.2

/-- A quotient of finite values that is a value is exact. -/
theorem units_div_eq {x p : F64} {n : Nat} (hx : isFinite x = true) (hp : isFinite p = true) (h0 : isZero p = false)
    (hn : FiniteMagnitude n) (h : units x * unit = n * units p) : units (div x p) = n := by
  rw [div_eq_round hx hp h0, h]
  exact units_round_mul (units_pos h0) hn

/-- A quotient by a value with a clear sign bit keeps the sign. -/
theorem sign_div {x p : F64} (hx : isFinite x = true) (hp : isFinite p = true) (h0 : isZero p = false)
    (hs : sign p = false) : sign (div x p) = sign x := by
  rw [div_eq_round hx hp h0, sign_round, hs, Bool.bne_false]

/-- The peak sample becomes 1 with its sign (42_quantizer.md R142 (b)). -/
theorem div_of_abs_eq {x p : F64} (hp : isFinite p = true) (hpos : lt zero p = true) (h : abs x = p) :
    div x p = if sign x then negOne else one := by
  obtain ⟨hs, h0⟩ := positive_of_zero_lt hpos
  have hx : isFinite x = true := by rwa [← isFinite_abs, h]
  have hunits : units x * unit = unit * units p := by rw [← h, units_abs, Nat.mul_comm]
  have hunit : FiniteMagnitude unit := units_one ▸ finiteMagnitude_units (x := one) (by decide)
  rw [← sign_div hx hp h0 hs]
  exact eq_one_or_negOne (mag_eq_oneMag_of_units_eq (units_div_eq hx hp h0 hunit hunits))

/-- A zero stays the zero it is (42_quantizer.md R142 (c)). -/
theorem div_of_isZero {x p : F64} (hp : isFinite p = true) (hpos : lt zero p = true) (h : isZero x = true) :
    div x p = x := by
  obtain ⟨hs, h0⟩ := positive_of_zero_lt hpos
  have hx := isFinite_of_isZero h
  have hmag := mag_eq_zero_of_isZero h
  have hunits : units x * unit = 0 * units p := by rw [units_eq_zero_iff.2 hmag, Nat.zero_mul, Nat.zero_mul]
  refine ext_sign_mag (sign_div hx hp h0 hs) ?_
  rw [hmag, ← units_eq_zero_iff]
  exact units_div_eq hx hp h0 finiteMagnitude_zero hunits

/-- Dividing by 1.0 changes no finite value. -/
theorem div_one {x : F64} (hx : isFinite x = true) : div x one = x := by
  have hone : isFinite one = true ∧ isZero one = false ∧ sign one = false := by decide
  obtain ⟨hfin, h0, hs⟩ := hone
  refine ext_sign_mag (sign_div hx hfin h0 hs) (units_inj_iff.1 ?_)
  exact units_div_eq hx hfin h0 (finiteMagnitude_units hx) (by rw [units_one])

end Sys2Proof.F64

namespace Sys2Proof.Machine

open Sys2Proof

theorem withinOne_iff {x : F64} : withinOne x = true ↔ F64.mag x ≤ F64.oneMag := by
  constructor
  · intro h
    rw [← F64.mag_one]
    exact F64.mag_le_of_abs_le (by decide) h
  · intro h
    have hfin : F64.isFinite (F64.abs x) = true := by
      rw [F64.isFinite_abs, F64.isFinite_iff]
      exact h.trans_lt (by decide)
    rw [withinOne, F64.le_of_nonneg (F64.sign_abs x) (by decide) (F64.not_isNaN_of_isFinite hfin) (by decide), F64.mag_abs]
    exact decide_eq_true (h.trans_eq F64.mag_one.symm)

theorem units_le_unit_of_withinOne {x : F64} (h : withinOne x = true) : F64.units x ≤ F64.unit :=
  F64.units_one ▸ F64.unitsOfMag_mono ((withinOne_iff.1 h).trans_eq F64.mag_one.symm)

theorem isFinite_of_withinOne {x : F64} (h : withinOne x = true) : F64.isFinite x = true :=
  (F64.isFinite_iff x).2 ((withinOne_iff.1 h).trans_lt (by decide))

/-- A sample at most the peak stays within 1 (42_quantizer.md R142 (a)). -/
theorem withinOne_div_peak {x p : F64} (hp : F64.isFinite p = true) (hpos : F64.lt F64.zero p = true)
    (hle : F64.le (F64.abs x) p = true) : withinOne (F64.div x p) = true := by
  obtain ⟨hs, h0⟩ := F64.positive_of_zero_lt hpos
  exact withinOne_iff.2 (mag_div_peak_le hp h0 (F64.mag_le_of_abs_le hs hle))

/-- Settles O28: the quotient of the magnitudes is at most 1, exactly 1, or exactly 0. -/
theorem divisionByPeakStaysWithinOne : Obligations.DivisionByPeakStaysWithinOne :=
  fun _ _ hp hpos hle =>
    ⟨withinOne_div_peak hp hpos hle, F64.div_of_abs_eq hp hpos, F64.div_of_isZero hp hpos⟩

/-! ### The signal after a `NORM` (42_quantizer.md R144) -/

/-- What a normalized signal is: within 1, and not silent only with a sample at the peak of 1. -/
structure NormalizedSignal (s : State) : Prop where
  within : ∀ x ∈ s.mem.sig, withinOne x = true
  peakSample : s.silent = false → ∃ x ∈ s.mem.sig, x = F64.one ∨ x = F64.negOne

/-- The peak of a loud signal belongs to a sample, which becomes `1.0` or `-1.0`. -/
theorem exists_div_peak_eq_one {sig : List F64} (h : ∀ x ∈ sig, F64.isFinite x = true)
    (hpos : F64.lt F64.zero (peakOf sig) = true) :
    ∃ x ∈ sig, F64.div x (peakOf sig) = F64.one ∨ F64.div x (peakOf sig) = F64.negOne := by
  obtain ⟨-, hfin, -, -⟩ := peakOf_spec sig h
  have hne : sig ≠ [] := by
    rintro rfl
    exact absurd hpos (by decide)
  obtain ⟨x, hx, hpeak⟩ := exists_abs_eq_peakOf h hne
  refine ⟨x, hx, ?_⟩
  rw [F64.div_of_abs_eq hfin hpos hpeak.symm]
  cases F64.sign x
  · exact .inl rfl
  · exact .inr rfl

/-- A signal whose peak is not above 0 has zeros only. -/
theorem mag_eq_zero_of_silent {sig : List F64} (h : ∀ x ∈ sig, F64.isFinite x = true)
    (hpos : ¬ F64.lt F64.zero (peakOf sig) = true) {x : F64} (hx : x ∈ sig) : F64.mag x = 0 := by
  obtain ⟨hsign, hfin, hmax, -⟩ := peakOf_spec sig h
  have hzero : F64.mag F64.zero = 0 := by decide
  rw [F64.lt_of_nonneg (by decide) hsign (by decide) (F64.not_isNaN_of_isFinite hfin), hzero, decide_eq_true_iff] at hpos
  have hle := hmax x hx
  omega

theorem normalizedSignal_normBody {s : State} (h : ∀ x ∈ s.mem.sig, F64.isFinite x = true) :
    NormalizedSignal (normBody s) := by
  rw [normBody_eq]
  split
  · rename_i hpos
    obtain ⟨-, hfin, -, -⟩ := peakOf_spec _ h
    obtain ⟨x, hx, hone⟩ := exists_div_peak_eq_one h hpos
    refine ⟨List.forall_mem_map.2 fun y hy => ?_, fun _ => ⟨_, List.mem_map_of_mem hx, hone⟩⟩
    exact withinOne_div_peak hfin hpos (abs_le_peakOf h hy)
  · rename_i hpos
    refine ⟨fun x hx => withinOne_iff.2 ?_, nofun⟩
    rw [mag_eq_zero_of_silent h hpos hx]
    exact Nat.zero_le _

/-- Settles O29: the next state of `NORM` has a normalized signal. -/
theorem normBoundsEverySample : Obligations.NormBoundsEverySample := fun s h =>
  ⟨normBody s, exec_norm s, (normalizedSignal_normBody h).within, (normalizedSignal_normBody h).peakSample⟩

/-! ### A second `NORM` (42_quantizer.md R145) -/

/-- The peak of a signal within 1 that reaches 1. -/
theorem peakOf_eq_one {sig : List F64} (hwithin : ∀ x ∈ sig, withinOne x = true)
    (hone : ∃ x ∈ sig, x = F64.one ∨ x = F64.negOne) : peakOf sig = F64.one := by
  obtain ⟨x, hx, hxone⟩ := hone
  obtain ⟨hsign, -, hmax, hmem⟩ := peakOf_spec sig fun y hy => isFinite_of_withinOne (hwithin y hy)
  have hge : F64.oneMag ≤ F64.mag (peakOf sig) := F64.mag_of_eq_one_or_negOne hxone ▸ hmax x hx
  have hle : F64.mag (peakOf sig) ≤ F64.oneMag := by
    rcases hmem with hzero | ⟨y, hy, habs⟩
    · rw [hzero]
      decide
    · rw [← habs, F64.mag_abs]
      exact withinOne_iff.1 (hwithin y hy)
  rw [F64.eq_one_or_negOne (le_antisymm hle hge), hsign]
  rfl

/-- A signal whose peak is 1.0 is divided by 1.0. -/
theorem normBody_of_peakOf_eq_one {s : State} (hwithin : ∀ x ∈ s.mem.sig, withinOne x = true)
    (hpeak : peakOf s.mem.sig = F64.one) :
    normBody s = { s with peak := F64.one, silent := false, phase := .normalized } := by
  have hpos : F64.lt F64.zero F64.one = true := by decide
  have hsame : s.rewriteSig (fun x => F64.div x F64.one) = s := by
    rw [State.rewriteSig, List.map_congr_left fun x hx => F64.div_one (isFinite_of_withinOne (hwithin x hx)), List.map_id']
  rw [normBody_eq, hpeak, if_pos hpos, hsame]

/-- The second `NORM` finds the peak 1.0, or the same silent signal. -/
theorem normBody_normBody {s : State} (h : ∀ x ∈ s.mem.sig, F64.isFinite x = true) :
    normBody (normBody s) = if (normBody s).silent then normBody s else { normBody s with peak := F64.one } := by
  have hnorm := normalizedSignal_normBody h
  by_cases hpos : F64.lt F64.zero (peakOf s.mem.sig) = true
  · have hfirst := normBody_eq s
    rw [if_pos hpos] at hfirst
    have hsilent : (normBody s).silent = false := by rw [hfirst]
    rw [normBody_of_peakOf_eq_one hnorm.within (peakOf_eq_one hnorm.within (hnorm.peakSample hsilent)), hsilent,
      if_neg Bool.false_ne_true, hfirst]
  · have hfirst := normBody_eq s
    rw [if_neg hpos] at hfirst
    rw [hfirst, normBody_eq, if_neg hpos, if_pos rfl]

/-- Settles O30: after a loud signal the second peak is 1.0, and dividing by it changes nothing. -/
theorem normIsIdempotent : Obligations.NormIsIdempotent := fun s h =>
  ⟨normBody s, exec_norm s, by rw [exec_norm, normBody_normBody h]⟩

/-! ### The range of the quantized values (42_quantizer.md R152) -/

theorem units_kFs : F64.units kFs = 32767 * F64.unit := by decide +kernel

theorem units_mul_kFs_le {x : F64} (h : withinOne x = true) : F64.units (F64.mul x kFs) ≤ 32767 * F64.unit := by
  rw [F64.mul_eq_round (isFinite_of_withinOne h) (by decide), units_kFs]
  refine F64.units_round_le F64.unit_pos (F64.finiteMagnitude_mul_unit (by norm_num)) ?_
  rw [Nat.mul_comm]
  exact Nat.mul_le_mul_left _ (units_le_unit_of_withinOne h)

/-- A magnitude of at most a whole number rounds to at most that number. -/
theorem natAbs_roundAway_le {y : F64} {n : Nat} (h : F64.units y ≤ n * F64.unit) : (F64.roundAway y).natAbs ≤ n := by
  have hpos := F64.unit_pos
  have hlt : (2 * F64.units y + F64.unit) / (2 * F64.unit) < n + 1 := by
    rw [Nat.div_lt_iff_lt_mul (by omega)]
    calc 2 * F64.units y + F64.unit < 2 * (n * F64.unit) + 2 * F64.unit := by omega
      _ = (n + 1) * (2 * F64.unit) := by ring
  rw [F64.roundAway_eq_withSign, F64.natAbs_withSign]
  exact Nat.le_of_lt_succ hlt

theorem natAbs_quantizeInt_le {x : F64} (h : withinOne x = true) : (quantizeInt x).natAbs ≤ 32767 :=
  natAbs_roundAway_le (units_mul_kFs_le h)

/-- In that range the 16 bits hold the value itself. -/
theorem toInt_quantize {x : F64} (h : withinOne x = true) : (quantize x).toInt = quantizeInt x := by
  have hrange := natAbs_quantizeInt_le h
  rw [quantize_of_withinOne h, BitVec.toInt_ofInt]
  exact Int.bmod_eq_of_le (by omega) (by omega)

/-- Settles O32: the scaled magnitude is at most 32767 before rounding, and so after it. -/
theorem quantizedValuesStayInRange : Obligations.QuantizedValuesStayInRange := by
  intro x h
  have hrange := natAbs_quantizeInt_le h
  exact ⟨by omega, by omega, toInt_quantize h⟩

end Sys2Proof.Machine

/-! Steps and turns: what each turn is, what the commands and the bus leave unchanged, and that the schedule runs out (43_control.md
R176, R177, 70_reset_and_hazards.md R230, R240). -/

namespace Sys2Proof.Machine

open Sys2Proof

/-! ### The pseudocode of each command -/

/-- The pseudocode a command runs, for statements about all commands. -/
def commandBody : Instr → State → Except ErrCode State
  | .nop => fun s => .ok s
  | .clear => fun s => .ok { s.emptyBuffers with peak := F64.zero, phase := .assembling, silent := false }
  | .clrerr => fun s => .ok s.clearError
  | .synthSin => synthBody (wave 0)
  | .synthTri => synthBody (wave 1)
  | .synthSqr => synthBody (wave 2)
  | .synthZero k => synthBody (wave k)
  | .norm => fun s => .ok (normBody s)
  | .quant => quantBody

theorem exec_eq_runCommand (i : Instr) (s : State) : exec i s = runCommand (commandBody i) s := by
  cases i <;> rfl

/-- A command leaves the state of its pseudocode, or performs the error entry of the code it raises. -/
theorem exec_cases {i : Instr} {s t : State} (h : exec i s = .next t) :
    commandBody i s = .ok t ∨ ∃ c, commandBody i s = .error c ∧ t = s.errorEntry c :=
  runCommand_cases (exec_eq_runCommand i s ▸ h)

/-! ### What no command writes (10_state.md R39 to R41, R45, R47, R50) -/

/-- The fields that no command writes. -/
structure CommandFrame (s t : State) : Prop where
  freq : t.freq = s.freq
  amp : t.amp = s.amp
  dur : t.dur = s.dur
  sigIdx : t.sigIdx = s.sigIdx
  params : t.params = s.params
  pending : t.pending = s.pending
  schedule : t.schedule = s.schedule
  responses : t.responses = s.responses
  draws : t.draws = s.draws

theorem commandFrame_errorEntry (c : ErrCode) (s : State) : CommandFrame s (s.errorEntry c) :=
  ⟨rfl, rfl, rfl, rfl, rfl, rfl, rfl, rfl, rfl⟩

theorem commandFrame_normBody (s : State) : CommandFrame s (normBody s) := by
  rw [normBody_eq]
  split <;> exact ⟨rfl, rfl, rfl, rfl, rfl, rfl, rfl, rfl, rfl⟩

theorem commandFrame_of_synthBody {gen : F64 → F64 → F64} {s t : State} (h : synthBody gen s = .ok t) :
    CommandFrame s t := by
  obtain ⟨-, -, _, -, -, -, rfl⟩ := synthBody_ok h
  exact ⟨rfl, rfl, rfl, rfl, rfl, rfl, rfl, rfl, rfl⟩

theorem commandFrame_of_quantBody {s t : State} (h : quantBody s = .ok t) : CommandFrame s t := by
  rcases quantBody_cases s with ⟨-, e⟩ | ⟨-, e⟩
  · cases e.symm.trans h
  · cases e.symm.trans h
    exact ⟨rfl, rfl, rfl, rfl, rfl, rfl, rfl, rfl, rfl⟩

theorem commandFrame_of_commandBody {i : Instr} {s t : State} (h : commandBody i s = .ok t) : CommandFrame s t := by
  cases i with
  | nop | clear | clrerr =>
    cases h
    exact ⟨rfl, rfl, rfl, rfl, rfl, rfl, rfl, rfl, rfl⟩
  | synthSin | synthTri | synthSqr | synthZero k => exact commandFrame_of_synthBody h
  | norm =>
    cases h
    exact commandFrame_normBody s
  | quant => exact commandFrame_of_quantBody h

theorem commandFrame_of_exec {i : Instr} {s t : State} (h : exec i s = .next t) : CommandFrame s t := by
  rcases exec_cases h with hok | ⟨c, -, rfl⟩
  · exact commandFrame_of_commandBody hok
  · exact commandFrame_errorEntry c s

/-- Settles O48: the pseudocode of no command writes those fields, and neither does the error entry. -/
theorem noCommandWritesArguments : Obligations.NoCommandWritesArguments := by
  intro i s
  obtain ⟨t, ht⟩ := exec_next i s
  obtain ⟨freq, amp, dur, sigIdx, params, pending, schedule, responses, draws⟩ := commandFrame_of_exec ht
  exact ⟨t, ht, freq, amp, dur, sigIdx, params, pending, schedule, responses, draws⟩

/-! ### What no bus access writes -/

/-- The fields that no bus access writes (20_memory.md R63, R65). -/
structure BusFrame (s t : State) : Prop where
  params : t.params = s.params
  mem : t.mem = s.mem
  phase : t.phase = s.phase
  silent : t.silent = s.silent
  schedule : t.schedule = s.schedule

theorem busFrame_busRead (t : Target) (s : State) : BusFrame s (s.busRead t) := by
  rcases busRead_cases t s with ⟨-, -, e⟩ | ⟨-, e⟩
  all_goals
    rw [e]
    exact ⟨rfl, rfl, rfl, rfl, rfl⟩

theorem busFrame_writeTarget (t : Target) (v : Word) (s : State) : BusFrame s (s.writeTarget t v) := by
  rcases writeTarget_cases t v s with e | ⟨-, e⟩ | ⟨-, -, -, e⟩ | e | ⟨-, e | e | e | e | e | e⟩
  all_goals
    rw [e]
    exact ⟨rfl, rfl, rfl, rfl, rfl⟩

theorem busFrame_busAccess (a : Access) (s : State) : BusFrame s (s.busAccess a) := by
  rcases busAccess_cases a s with ⟨_, _, t, -, -, e⟩ | ⟨_, _, v, t, -, -, e⟩ | e
  · rw [e]
    exact busFrame_busRead t s
  · rw [e]
    obtain ⟨params, mem, phase, silent, schedule⟩ := busFrame_writeTarget t v s
    exact ⟨params, mem, phase, silent, schedule⟩
  · rw [e]
    exact ⟨rfl, rfl, rfl, rfl, rfl⟩

/-- What a step does, with a pending word's command named. -/
theorem step_cases_of_next {s t : State} (h : step s = .next t) :
    (∃ a, s.nextTurn = .access a ∧ t = s.restOfSchedule.busAccess a) ∨
    (s.nextTurn = .reset ∧ t = s.restOfSchedule.resetEvent) ∨
    (s.nextTurn = .engine ∧ s.pending = none ∧ t = s.restOfSchedule) ∨
    (∃ w, s.nextTurn = .engine ∧ s.pending = some w ∧ (∃ e, decodeWord w = .error e) ∧
      t = (s.restOfSchedule.errorEntry .illegalCmd).complete) ∨
    (∃ w i u, s.nextTurn = .engine ∧ s.pending = some w ∧ decodeWord w = .ok i ∧ exec i s.restOfSchedule = .next u ∧
      t = u.complete) := by
  rcases step_cases s with ⟨a, ha, e⟩ | ⟨hr, e⟩ | ⟨hn, hp, e⟩ | ⟨w, hn, hp, e⟩
  · exact .inl ⟨a, ha, Host.Outcome.next.inj (h.symm.trans e)⟩
  · exact .inr (.inl ⟨hr, Host.Outcome.next.inj (h.symm.trans e)⟩)
  · exact .inr (.inr (.inl ⟨hn, hp, Host.Outcome.next.inj (h.symm.trans e)⟩))
  · rcases engineStep_cases w s.restOfSchedule with ⟨hd, e'⟩ | ⟨i, u, hd, hu, e'⟩
    · exact .inr (.inr (.inr (.inl ⟨w, hn, hp, hd, Host.Outcome.next.inj (h.symm.trans (e.trans e'))⟩)))
    · exact .inr (.inr (.inr (.inr ⟨w, i, u, hn, hp, hd, hu, Host.Outcome.next.inj (h.symm.trans (e.trans e'))⟩)))

/-! ### Steps and turns -/

/-- Settles O12: each turn answers a next state, and so does every command. -/
theorem stepAlwaysAnswersNextState : Obligations.StepAlwaysAnswersNextState := by
  intro s
  rcases step_cases s with ⟨a, -, e⟩ | ⟨-, e⟩ | ⟨-, -, e⟩ | ⟨w, -, -, e⟩
  · exact ⟨_, e⟩
  · exact ⟨_, e⟩
  · exact ⟨_, e⟩
  · rcases engineStep_cases w s.restOfSchedule with ⟨-, e'⟩ | ⟨_, _, -, -, e'⟩
    · exact ⟨_, e.trans e'⟩
    · exact ⟨_, e.trans e'⟩

/-- Settles O5: the engine step is the command's effect and the emptying of PENDING. -/
theorem stepRunsDecodedCommand : Obligations.StepRunsDecodedCommand := by
  intro s w i hn hp hw
  obtain ⟨t, ht⟩ := exec_next i s.restOfSchedule
  refine ⟨t, ht, ?_⟩
  rw [step_of_pending hn hp, engineStep, hw]
  exact congrArg completeOutcome ht

theorem step_of_idle {s : State} (hn : s.nextTurn = .engine) (hp : s.pending = none) : step s = .next s.restOfSchedule := by
  rw [step_engine hn, engineTurn, restOfSchedule_pending, hp]

/-- Settles O7: with nothing pending the engine's turn is the state itself. -/
theorem idleEngineTurnChangesNothing : Obligations.IdleEngineTurnChangesNothing := fun _ => step_of_idle

/-- Settles O8: the reset event makes the reset state anew and keeps what log 18 names. -/
theorem resetEventRestoresResetState : Obligations.ResetEventRestoresResetState := fun _ h => step_reset h

/-- A step takes its turn off the schedule, and nothing else writes the schedule. -/
theorem step_schedule {s t : State} (h : step s = .next t) : t.schedule = s.schedule.tail := by
  rcases step_cases_of_next h with ⟨a, -, rfl⟩ | ⟨-, rfl⟩ | ⟨-, -, rfl⟩ | ⟨_, -, -, -, rfl⟩ | ⟨_, _, u, -, -, -, hu, rfl⟩
  · exact (busFrame_busAccess a s.restOfSchedule).schedule
  · rfl
  · rfl
  · rfl
  · exact (commandFrame_of_exec hu).schedule

/-- The engine's turn leaves no command pending (43_control.md R176). -/
theorem step_pending_of_engine {s t : State} (hn : s.nextTurn = .engine) (h : step s = .next t) : t.pending = none := by
  rcases step_cases_of_next h with ⟨a, ha, -⟩ | ⟨hr, -⟩ | ⟨-, hp, rfl⟩ | ⟨_, -, -, -, rfl⟩ | ⟨_, _, u, -, -, -, -, rfl⟩
  · cases hn.symm.trans ha
  · cases hn.symm.trans hr
  · exact hp
  · rfl
  · rfl

theorem run_zero (s : State) : core.run 0 s = .next s := rfl

theorem run_succ {s t : State} (h : step s = .next t) (k : Nat) : core.run (k + 1) s = core.run k t := by
  have hstep : core.step s = .next t := h
  simp only [Host.Core.run, hstep]

/-- The turns of the schedule are taken one by one, and the turn after the last one is the engine's. -/
theorem run_schedule (n : Nat) (s : State) (hn : s.schedule.length = n) :
    ∃ t, core.run (n + 1) s = .next t ∧ t.pending = none ∧ t.schedule = [] := by
  induction n generalizing s with
  | zero =>
    have hnil : s.schedule = [] := List.length_eq_zero_iff.1 hn
    have hengine : s.nextTurn = .engine := by rw [State.nextTurn, hnil, List.headD_nil]
    obtain ⟨t, ht⟩ := stepAlwaysAnswersNextState s
    refine ⟨t, (run_succ ht 0).trans (run_zero t), step_pending_of_engine hengine ht, ?_⟩
    rw [step_schedule ht, hnil, List.tail_nil]
  | succ n ih =>
    obtain ⟨u, hu⟩ := stepAlwaysAnswersNextState s
    obtain ⟨t, ht, hend⟩ := ih u (by rw [step_schedule hu, List.length_tail, hn, Nat.add_sub_cancel])
    exact ⟨t, (run_succ hu _).trans ht, hend⟩

/-- Settles O13, by induction on the number of turns left. -/
theorem noRunEndsWithPendingCommand : Obligations.NoRunEndsWithPendingCommand := fun s => run_schedule _ s rfl

/-! ### Who writes PHASE and LEN (10_state.md R34, R42) -/

theorem phase_normBody (s : State) : (normBody s).phase = .normalized := by
  rw [normBody_eq]
  split <;> rfl

theorem len_normBody (s : State) : (normBody s).len = s.len := by
  rw [normBody_eq]
  split
  · exact len_rewriteSig _ s
  · rfl

theorem pcm_normBody (s : State) : (normBody s).mem.pcm = s.mem.pcm := by
  rw [normBody_eq]
  split <;> rfl

theorem quantBody_ok {s t : State} (h : quantBody s = .ok t) :
    s.phase ≠ .assembling ∧ t = { s.fillPcm quantize with phase := .quantized } := by
  rcases quantBody_cases s with ⟨-, e⟩ | ⟨hp, e⟩
  · cases e.symm.trans h
  · exact ⟨hp, Except.ok.inj (h.symm.trans e)⟩

/-- A `SYNTH` that completes appends a segment while assembling. -/
theorem exists_appendSegment_of_synthBody {gen : F64 → F64 → F64} {s t : State} (h : synthBody gen s = .ok t) :
    ∃ seg, s.phase = .assembling ∧ s.len + seg.length ≤ s.params.maxSamples ∧ (∀ x ∈ seg, F64.isFinite x = true) ∧
      t = s.appendSegment seg := by
  obtain ⟨hp, -, count, -, hfits, hfin, rfl⟩ := synthBody_ok h
  exact ⟨_, hp, by rwa [segmentSamples_length], hfin, rfl⟩

/-- The writers of PHASE among the commands, each with its value. -/
theorem exec_phase {i : Instr} {s t : State} (h : exec i s = .next t) :
    t.phase = s.phase ∨ (i = .clear ∧ t.phase = .assembling) ∨ (i = .norm ∧ t.phase = .normalized) ∨
      (i = .quant ∧ t.phase = .quantized) := by
  rcases exec_cases h with hok | ⟨c, -, rfl⟩
  · cases i with
    | nop | clrerr =>
      cases hok
      exact .inl rfl
    | clear =>
      cases hok
      exact .inr (.inl ⟨rfl, rfl⟩)
    | synthSin | synthTri | synthSqr | synthZero k =>
      obtain ⟨_, -, -, -, rfl⟩ := exists_appendSegment_of_synthBody hok
      exact .inl rfl
    | norm =>
      cases hok
      exact .inr (.inr (.inl ⟨rfl, phase_normBody s⟩))
    | quant =>
      obtain ⟨-, rfl⟩ := quantBody_ok hok
      exact .inr (.inr (.inr ⟨rfl, rfl⟩))
  · exact .inl rfl

/-- The writers of LEN among the commands. -/
theorem exec_len {i : Instr} {s t : State} (h : exec i s = .next t) :
    t.len = s.len ∨ (i = .clear ∧ t.len = 0) ∨ (s.len < t.len ∧ s.phase = .assembling ∧ ∃ k, synthKind i = some k) := by
  rcases exec_cases h with hok | ⟨c, -, rfl⟩
  · cases i with
    | nop | clrerr =>
      cases hok
      exact .inl rfl
    | clear =>
      cases hok
      exact .inr (.inl ⟨rfl, rfl⟩)
    | synthSin | synthTri | synthSqr | synthZero k =>
      obtain ⟨seg, hp, -, -, rfl⟩ := exists_appendSegment_of_synthBody hok
      rw [len_appendSegment]
      rcases Nat.eq_zero_or_pos seg.length with h0 | hpos
      · exact .inl (by rw [h0, Nat.add_zero])
      · exact .inr (.inr ⟨Nat.lt_add_of_pos_right hpos, hp, _, rfl⟩)
    | norm =>
      cases hok
      exact .inl (len_normBody s)
    | quant =>
      obtain ⟨-, rfl⟩ := quantBody_ok hok
      exact .inl rfl
  · exact .inl rfl

/-- The pending word of a decoded command is that command's word (30_encoding.md R87). -/
theorem pending_eq_encode {s : State} {w : Word} {i : Instr} (hp : s.pending = some w) (hw : decodeWord w = .ok i) :
    s.pending = some (encode i) := by
  rw [hp, (encodeInvertsDecode w i hw).2]

/-- Settles O49: of the turns, only reset and the engine step of one of three commands write PHASE. -/
theorem phaseHasListedWriters : Obligations.PhaseHasListedWriters := by
  intro s t h hne
  rcases step_cases_of_next h with
    ⟨a, -, rfl⟩ | ⟨hr, rfl⟩ | ⟨-, -, rfl⟩ | ⟨_, -, -, -, rfl⟩ | ⟨w, i, u, hn, hp, hw, hu, rfl⟩
  · exact absurd (busFrame_busAccess a s.restOfSchedule).phase hne
  · exact .inl ⟨hr, rfl⟩
  · exact absurd rfl hne
  · exact absurd rfl hne
  · have hword := pending_eq_encode hp hw
    refine .inr ⟨hn, ?_⟩
    rcases exec_phase hu with hsame | ⟨rfl, hphase⟩ | ⟨rfl, hphase⟩ | ⟨rfl, hphase⟩
    · exact absurd hsame hne
    · exact .inl ⟨hword, hphase⟩
    · exact .inr (.inl ⟨hword, hphase⟩)
    · exact .inr (.inr ⟨hword, hphase⟩)

/-- No step writes the parameters (10_state.md R47). -/
theorem step_params {s t : State} (h : step s = .next t) : t.params = s.params := by
  rcases step_cases_of_next h with ⟨a, -, rfl⟩ | ⟨-, rfl⟩ | ⟨-, -, rfl⟩ | ⟨_, -, -, -, rfl⟩ | ⟨_, _, u, -, -, -, hu, rfl⟩
  · exact (busFrame_busAccess a s.restOfSchedule).params
  · rfl
  · rfl
  · rfl
  · exact (commandFrame_of_exec hu).params

/-- Settles O50: of the turns, only reset and the engine step of `CLEAR` or of a `SYNTH` write the signal's length. -/
theorem lenHasListedWriters : Obligations.LenHasListedWriters := by
  intro s t h
  refine ⟨step_params h, ?_⟩
  rcases step_cases_of_next h with
    ⟨a, -, rfl⟩ | ⟨hr, rfl⟩ | ⟨-, -, rfl⟩ | ⟨_, -, -, -, rfl⟩ | ⟨w, i, u, hn, hp, hw, hu, rfl⟩
  · exact .inl (congrArg (·.sig.length) (busFrame_busAccess a s.restOfSchedule).mem)
  · exact .inr (.inl ⟨rfl, .inl hr⟩)
  · exact .inl rfl
  · exact .inl rfl
  · rcases exec_len hu with hsame | ⟨rfl, hzero⟩ | ⟨hlt, hphase, k, hk⟩
    · exact .inl hsame
    · exact .inr (.inl ⟨hzero, .inr ⟨hn, pending_eq_encode hp hw⟩⟩)
    · exact .inr (.inr ⟨hlt, hphase, hn, w, i, k, hp, hw, hk⟩)

end Sys2Proof.Machine

/-! Every step keeps the state's invariant (10_state.md R53), and errors are precise (60_exceptions.md R209, R210, R212). -/

namespace Sys2Proof.Machine

open Sys2Proof

/-! ### The invariant -/

/-- The invariant speaks of the parameters, the buffers, PHASE and SILENT, and of ERR and ERRCODE by I6 only. -/
theorem Inv.of_same_results {s t : State} (h : Inv s) (hparams : t.params = s.params) (hmem : t.mem = s.mem)
    (hphase : t.phase = s.phase) (hsilent : t.silent = s.silent) (hcode : t.err = false → t.errCode = .noError) : Inv t where
  legal := hparams ▸ h.legal
  lenFits := by
    rw [State.len, hmem, hparams]
    exact h.lenFits
  pcmLen := by
    rw [State.len, State.pcmLen, hmem]
    exact h.pcmLen
  finite := hmem ▸ h.finite
  bounded := by
    rw [hphase, hmem]
    exact h.bounded
  quantized := by
    rw [hphase, hmem]
    exact h.quantized
  noCode := hcode
  pcmRange := hmem ▸ h.pcmRange
  assemblingNoPcm := by
    rw [hphase, State.pcmLen, hmem]
    exact h.assemblingNoPcm
  peakSample := by
    rw [hphase, hsilent, hmem]
    exact h.peakSample

theorem inv_resetWith {p : Config.Params} (hp : p.Legal) : Inv (State.resetWith p) where
  legal := hp
  lenFits := Nat.zero_le _
  pcmLen := .inl rfl
  finite := nofun
  bounded := fun h => absurd rfl h
  quantized := nofun
  noCode := fun _ => rfl
  pcmRange := nofun
  assemblingNoPcm := fun _ => rfl
  peakSample := fun h => absurd rfl h

theorem legal_defaultParams : Config.defaultParams.Legal := ⟨by decide, by decide, by decide⟩

/-- Settles O10: at reset both buffers are empty, PHASE is ASSEMBLING and ERRCODE is 0. -/
theorem resetSatisfiesStateInvariant : Obligations.ResetSatisfiesStateInvariant :=
  ⟨fun _ => inv_resetWith, inv_resetWith legal_defaultParams⟩

/-- A state with the error state of one that meets I6 meets I6. -/
theorem noCode_of_sameError {s t : State} (h : Inv s) (he : SameError s t) : t.err = false → t.errCode = .noError := by
  rw [he.1, he.2]
  exact h.noCode

/-! ### A bus access keeps it -/

/-- A write leaves ERR and ERRCODE or performs an error entry, which sets ERR. -/
theorem sameError_or_err_writeTarget (t : Target) (v : Word) (s : State) :
    SameError s (s.writeTarget t v) ∨ (s.writeTarget t v).err = true := by
  rcases writeTarget_cases t v s with e | ⟨-, e⟩ | ⟨-, -, -, e⟩ | e | ⟨-, e | e | e | e | e | e⟩
  case inr.inl =>
    rw [e]
    exact .inr rfl
  all_goals
    rw [e]
    exact .inl ⟨rfl, rfl⟩

theorem noCode_busAccess {s : State} (h : Inv s) (a : Access) :
    (s.busAccess a).err = false → (s.busAccess a).errCode = .noError := by
  rcases busAccess_cases a s with ⟨_, _, t, -, -, e⟩ | ⟨_, _, v, t, -, -, e⟩ | e
  · rw [e]
    exact noCode_of_sameError h (sameError_busRead t s)
  · rw [e, respond_err, respond_errCode]
    rcases sameError_or_err_writeTarget t v s with hsame | herr
    · exact noCode_of_sameError h hsame
    · rw [herr]
      exact nofun
  · rw [e]
    exact h.noCode

theorem inv_busAccess {s : State} (h : Inv s) (a : Access) : Inv (s.busAccess a) :=
  have frame := busFrame_busAccess a s
  h.of_same_results frame.params frame.mem frame.phase frame.silent (noCode_busAccess h a)

/-! ### A command keeps it -/

theorem inv_errorEntry {s : State} (h : Inv s) (c : ErrCode) : Inv (s.errorEntry c) :=
  h.of_same_results rfl rfl rfl rfl nofun

theorem inv_complete {s : State} (h : Inv s) : Inv s.complete := h.of_same_results rfl rfl rfl rfl h.noCode

theorem inv_clear {s : State} (h : Inv s) :
    Inv { s.emptyBuffers with peak := F64.zero, phase := .assembling, silent := false } where
  legal := h.legal
  lenFits := Nat.zero_le _
  pcmLen := .inl rfl
  finite := nofun
  bounded := fun h => absurd rfl h
  quantized := nofun
  noCode := h.noCode
  pcmRange := nofun
  assemblingNoPcm := fun _ => rfl
  peakSample := fun h => absurd rfl h

theorem inv_clearError {s : State} (h : Inv s) : Inv s.clearError :=
  h.of_same_results rfl rfl rfl rfl fun _ => rfl

/-- A finite segment that fits may be appended while assembling, where no PCM sample is held. -/
theorem inv_appendSegment {s : State} {seg : List F64} (h : Inv s) (hp : s.phase = .assembling)
    (hfits : s.len + seg.length ≤ s.params.maxSamples) (hfin : ∀ x ∈ seg, F64.isFinite x = true) :
    Inv (s.appendSegment seg) where
  legal := h.legal
  lenFits := by
    rw [len_appendSegment]
    exact hfits
  pcmLen := .inl (h.assemblingNoPcm hp)
  finite := fun x hx => (List.mem_append.1 hx).elim (h.finite x) (hfin x)
  bounded := fun hne => absurd hp hne
  quantized := fun hq => by cases hp.symm.trans hq
  noCode := h.noCode
  pcmRange := h.pcmRange
  assemblingNoPcm := h.assemblingNoPcm
  peakSample := fun hne => absurd hp hne

/-- `NORM` leaves a normalized signal (42_quantizer.md R144) and the PCM buffer. -/
theorem inv_normBody {s : State} (h : Inv s) : Inv (normBody s) where
  legal := (commandFrame_normBody s).params ▸ h.legal
  lenFits := by
    rw [len_normBody, (commandFrame_normBody s).params]
    exact h.lenFits
  pcmLen := by
    rw [len_normBody, State.pcmLen, pcm_normBody]
    exact h.pcmLen
  finite := fun x hx => isFinite_of_withinOne ((normalizedSignal_normBody h.finite).within x hx)
  bounded := fun _ => (normalizedSignal_normBody h.finite).within
  quantized := fun hq => by cases (phase_normBody s).symm.trans hq
  noCode := noCode_of_sameError h (sameError_normBody s)
  pcmRange := pcm_normBody s ▸ h.pcmRange
  assemblingNoPcm := fun ha => by cases (phase_normBody s).symm.trans ha
  peakSample := fun _ => (normalizedSignal_normBody h.finite).peakSample

/-- The quantized value of every sample within 1 is in the range of R152. -/
theorem quantize_range {x : F64} (h : withinOne x = true) : -32767 ≤ (quantize x).toInt ∧ (quantize x).toInt ≤ 32767 := by
  obtain ⟨hlow, hhigh, hstored⟩ := quantizedValuesStayInRange x h
  exact ⟨hstored ▸ hlow, hstored ▸ hhigh⟩

/-- Outside ASSEMBLING the samples are within 1, so that `QUANT` stores values in range. -/
theorem inv_quant {s : State} (h : Inv s) (hp : s.phase ≠ .assembling) :
    Inv { s.fillPcm quantize with phase := .quantized } where
  legal := h.legal
  lenFits := h.lenFits
  pcmLen := .inr (pcmLen_fillPcm quantize s)
  finite := h.finite
  bounded := fun _ => h.bounded hp
  quantized := fun _ => rfl
  noCode := h.noCode
  pcmRange := List.forall_mem_map.2 fun x hx => quantize_range (h.bounded hp x hx)
  assemblingNoPcm := nofun
  peakSample := fun _ => h.peakSample hp

theorem inv_of_commandBody {i : Instr} {s t : State} (h : Inv s) (ht : commandBody i s = .ok t) : Inv t := by
  cases i with
  | nop =>
    cases ht
    exact h
  | clear =>
    cases ht
    exact inv_clear h
  | clrerr =>
    cases ht
    exact inv_clearError h
  | synthSin | synthTri | synthSqr | synthZero k =>
    obtain ⟨seg, hp, hfits, hfin, rfl⟩ := exists_appendSegment_of_synthBody ht
    exact inv_appendSegment h hp hfits hfin
  | norm =>
    cases ht
    exact inv_normBody h
  | quant =>
    obtain ⟨hp, rfl⟩ := quantBody_ok ht
    exact inv_quant h hp

theorem inv_of_exec {i : Instr} {s t : State} (h : Inv s) (ht : exec i s = .next t) : Inv t := by
  rcases exec_cases ht with hok | ⟨c, -, rfl⟩
  · exact inv_of_commandBody h hok
  · exact inv_errorEntry h c

/-- Settles O11: each turn of a run keeps the invariant. -/
theorem stepKeepsStateInvariant : Obligations.StepKeepsStateInvariant := by
  intro s t h ht
  have hrest : Inv s.restOfSchedule := h.of_same_results rfl rfl rfl rfl h.noCode
  rcases step_cases_of_next ht with ⟨a, -, rfl⟩ | ⟨-, rfl⟩ | ⟨-, -, rfl⟩ | ⟨_, -, -, -, rfl⟩ | ⟨_, _, u, -, -, -, hu, rfl⟩
  · exact inv_busAccess hrest a
  · exact (inv_resetWith h.legal).of_same_results rfl rfl rfl rfl fun _ => rfl
  · exact hrest
  · exact inv_complete (inv_errorEntry hrest .illegalCmd)
  · exact inv_complete (inv_of_exec hrest hu)

/-! ### Errors are precise -/

/-- The state with another error state. -/
def State.withError (e : Bool) (c : ErrCode) (s : State) : State := { s with err := e, errCode := c }

/-- The pseudocode neither reads ERR or ERRCODE nor writes them. -/
def IgnoresError (body : State → Except ErrCode State) : Prop :=
  ∀ (e : Bool) (c : ErrCode) (s : State), body (s.withError e c) = (body s).map (State.withError e c)

theorem appendChecked_withError (e : Bool) (c : ErrCode) (s : State) (count : Nat) (seg : List F64) :
    appendChecked (s.withError e c) count seg = (appendChecked s count seg).map (State.withError e c) := by
  have hparams : (s.withError e c).params = s.params := rfl
  have hlen : (s.withError e c).len = s.len := rfl
  unfold appendChecked
  rw [hparams, hlen]
  split_ifs <;> rfl

theorem ignoresError_synthBody (gen : F64 → F64 → F64) : IgnoresError (synthBody gen) := by
  intro e c s
  by_cases hp : s.phase = .assembling
  · by_cases ha : GoodArgs s.freq s.amp s.dur
    · cases hc : sampleCount s.dur with
      | none =>
        rw [synthBody_of_sampleCount_none hp ha hc]
        exact synthBody_of_sampleCount_none (s := s.withError e c) hp ha hc
      | some count =>
        rw [synthBody_of_sampleCount_some hp ha hc, ← appendChecked_withError]
        exact synthBody_of_sampleCount_some (s := s.withError e c) hp ha hc
    · rw [synthBody_of_not_goodArgs hp ha]
      exact synthBody_of_not_goodArgs (s := s.withError e c) hp ha
  · rw [synthBody_of_phase_ne hp]
    exact synthBody_of_phase_ne (s := s.withError e c) hp

theorem ignoresError_normBody : IgnoresError fun s => .ok (normBody s) := by
  intro e c s
  have hsig : (s.withError e c).mem.sig = s.mem.sig := rfl
  simp only [normBody_eq, hsig]
  split <;> rfl

theorem ignoresError_quantBody : IgnoresError quantBody := by
  intro e c s
  have hphase : (s.withError e c).phase = s.phase := rfl
  unfold quantBody
  rw [hphase]
  split <;> rfl

theorem ignoresError_commandBody {i : Instr} (hi : i ≠ .clrerr) : IgnoresError (commandBody i) := by
  cases i with
  | nop | clear => exact fun _ _ _ => rfl
  | clrerr => exact absurd rfl hi
  | synthSin | synthTri | synthSqr | synthZero k => exact ignoresError_synthBody _
  | norm => exact ignoresError_normBody
  | quant => exact ignoresError_quantBody

/-- The codes that the pseudocode raises are errors (60_exceptions.md R201). -/
theorem commandBody_error_ne_noError {i : Instr} {s : State} {c : ErrCode} (h : commandBody i s = .error c) :
    c ≠ .noError := by
  cases i with
  | nop | clear | clrerr | norm => cases h
  | synthSin | synthTri | synthSqr | synthZero k => rcases synthBody_error h with rfl | rfl | rfl | rfl <;> exact nofun
  | quant =>
    rcases quantBody_cases s with ⟨-, e⟩ | ⟨-, e⟩
    · cases e.symm.trans h
      exact nofun
    · cases e.symm.trans h

/-- A command that completes leaves ERR 0 when it started with ERR 0. -/
theorem err_of_commandBody_ok {i : Instr} {s t : State} (h : commandBody i s = .ok t) (herr : s.err = false) :
    t.err = false := by
  cases i with
  | nop | clear =>
    cases h
    exact herr
  | clrerr =>
    cases h
    rfl
  | synthSin | synthTri | synthSqr | synthZero k => exact (sameError_of_synthBody h).1.trans herr
  | norm =>
    cases h
    exact (sameError_normBody s).1.trans herr
  | quant => exact (sameError_of_quantBody h).1.trans herr

/-- A command other than `CLRERR` goes the same way as on the state with ERR and ERRCODE 0. -/
theorem exec_eq_of_withError {i : Instr} (hi : i ≠ .clrerr) (s : State) :
    exec i s = .next (s.settle ((commandBody i (s.withError false .noError)).map (State.withError s.err s.errCode))) := by
  rw [exec_eq_runCommand, runCommand_eq, ← ignoresError_commandBody hi]
  rfl

/-- Settles O33: a raise on the state with ERR and ERRCODE 0 is the error entry of the code that the command raises there. -/
theorem errorsArePrecise : Obligations.ErrorsArePrecise := by
  intro i s t h
  rcases exec_cases (s := s.withError false .noError) h with hok | ⟨c, hraise, rfl⟩
  · have herr : t.err = false := err_of_commandBody_ok hok rfl
    refine ⟨fun htrue => Bool.noConfusion (herr.symm.trans htrue), fun _ hi => ?_⟩
    rw [exec_eq_of_withError hi, hok]
    rfl
  · have hi : i ≠ .clrerr := by
      rintro rfl
      cases hraise
    refine ⟨fun _ => ⟨commandBody_error_ne_noError hraise, ?_⟩, nofun⟩
    rw [exec_eq_of_withError hi, hraise]
    rfl

end Sys2Proof.Machine

/-! The segment that a `SYNTH` appends, and NUMERIC (41_synthesizer.md R100, R104 to R112, R115 to R118). -/

namespace Sys2Proof.Machine

open Sys2Proof

/-! ### A `SYNTH` whose arguments and count pass -/

/-- The count of a state that is ready is the whole number it names (41_synthesizer.md R102). -/
theorem SynthReady.sampleCount_eq {s : State} {N : Nat} (h : SynthReady s N) : sampleCount s.dur = some N := by
  rw [sampleCount, if_pos h.finiteCount, h.count, Int.toNat_natCast]

/-- When the phase, the arguments and the count pass, the numeric check alone decides (41_synthesizer.md R111, R112). -/
theorem SynthReady.synthBody_eq_ite {s : State} {N : Nat} (h : SynthReady s N) (gen : F64 → F64 → F64) :
    synthBody gen s =
      if (segmentSamples gen s.freq s.amp s.dur N).all F64.isFinite then
        .ok (s.appendSegment (segmentSamples gen s.freq s.amp s.dur N))
      else .error .numeric := by
  rw [synthBody_of_sampleCount_some h.phase h.args h.sampleCount_eq, appendChecked, if_neg (Nat.not_lt.2 h.fits)]

/-- The samples of a segment are finite when each scaled sample is. -/
theorem all_segmentSamples_iff {gen : F64 → F64 → F64} {f a d : F64} {N : Nat} :
    (segmentSamples gen f a d N).all F64.isFinite = true ↔
      ∀ n < N, F64.isFinite (scaledSample gen f a (timeAt n d N)) = true := by
  simp [segmentSamples]

/-- A `SYNTH` of finite samples appends them and changes nothing else (41_synthesizer.md R112). -/
theorem exec_of_finite_samples {i : Instr} {k : BitVec 4} {s : State} {N : Nat} (hi : synthKind i = some k)
    (h : SynthReady s N)
    (hfin : ∀ n < N, F64.isFinite (scaledSample (wave k) s.freq s.amp (timeAt n s.dur N)) = true) :
    exec i s = .next (s.appendSegment (segmentSamples (wave k) s.freq s.amp s.dur N)) := by
  rw [exec_of_synthKind hi, runCommand_eq, h.synthBody_eq_ite, if_pos (all_segmentSamples_iff.2 hfin), settle_ok]

/-- Settles O24: the segment is discarded whole. -/
theorem synthNonFiniteSampleRaisesNumeric : Obligations.SynthNonFiniteSampleRaisesNumeric := by
  rintro i k s N hi h ⟨n, hn, hnot⟩
  refine exec_of_synthBody_error hi ?_
  rw [h.synthBody_eq_ite, if_neg]
  intro hall
  cases (all_segmentSamples_iff.1 hall n hn).symm.trans hnot

/-! ### Scaled samples are finite (41_synthesizer.md R110) -/

/-- Scaling a sample within 1 by a finite amplitude gives a finite sample. -/
theorem isFinite_mul_of_withinOne {x a : F64} (hx : withinOne x = true) (ha : F64.isFinite a = true) :
    F64.isFinite (F64.mul x a) = true := by
  rw [F64.mul_eq_round (isFinite_of_withinOne hx) ha]
  refine F64.isFinite_round F64.unit_pos (F64.finiteMagnitude_units ha) ?_
  rw [Nat.mul_comm]
  exact Nat.mul_le_mul_left _ (units_le_unit_of_withinOne hx)

theorem withinOne_zero : withinOne F64.zero = true := by decide

theorem withinOne_sin {x : F64} (h : F64.isFinite x = true) : withinOne (sin x) = true :=
  withinOne_iff.2 (mag_sin_le_oneMag h)

theorem withinOne_sineSign {x : F64} (h : F64.isFinite x = true) : withinOne (sineSign x) = true := by
  rw [sineSign, if_pos h]
  split_ifs <;> decide

/-! ### The four generators -/

theorem wave_zero : wave 0 = sineWave := rfl

theorem wave_one : wave 1 = triangleWave := rfl

theorem wave_two : wave 2 = squareWave := rfl

theorem wave_of_three_le {k : BitVec 4} (h : 3 ≤ k.toNat) : wave k = zeroWave := by
  unfold wave
  split
  case h_4 => rfl
  all_goals omega

/-- Settles O17: a sine within 1 scaled by a finite amplitude is finite, so the numeric check passes. -/
theorem synthSinAppendsScaledSine : Obligations.SynthSinAppendsScaledSine := by
  intro s N h hphase
  refine exec_of_finite_samples (k := 0) rfl h fun n hn => ?_
  rw [wave_zero]
  exact isFinite_mul_of_withinOne (withinOne_sin (hphase n hn)) h.args.amp

/-- Settles O18: the generator evaluates the triangle as R107 writes it. -/
theorem synthTriAppendsScaledTriangle : Obligations.SynthTriAppendsScaledTriangle := by
  intro s N p w h hp hw hfin
  have hwave (n : Nat) : wave 1 s.freq (timeAt n s.dur N) = w n := by
    rw [wave_one, hw, hp]
    rfl
  have hsample (n : Nat) : scaledSample (wave 1) s.freq s.amp (timeAt n s.dur N) = F64.mul (w n) s.amp :=
    congrArg (F64.mul · s.amp) (hwave n)
  rw [exec_of_finite_samples (i := .synthTri) (k := 1) rfl h fun n hn => (hsample n).symm ▸ hfin n hn]
  simp only [State.appendSegment, segmentSamples, hsample]

/-- Settles O19: the square generator is the sign of the sine, which is within 1. -/
theorem synthSqrAppendsScaledSign : Obligations.SynthSqrAppendsScaledSign := by
  intro s N h hphase
  simp only [← sineSign_eq_signum_sin]
  refine exec_of_finite_samples (k := 2) rfl h fun n hn => ?_
  rw [wave_two]
  exact isFinite_mul_of_withinOne (withinOne_sineSign (hphase n hn)) h.args.amp

/-- The segment of an unknown kind is the scaled zero `N` times (41_synthesizer.md R109). -/
theorem segmentSamples_zeroWave (f a d : F64) (N : Nat) :
    segmentSamples zeroWave f a d N = List.replicate N (F64.mul F64.zero a) := by
  have hconst : (fun n => scaledSample zeroWave f a (timeAt n d N)) = fun _ => F64.mul F64.zero a := rfl
  rw [segmentSamples, hconst, List.map_const', List.length_range]

/-- Settles O20: a zero scaled by a finite amplitude is finite, so NUMERIC is never raised. -/
theorem synthZeroAppendsScaledZeros : Obligations.SynthZeroAppendsScaledZeros := by
  intro k s N hk h
  have hwave := wave_of_three_le (of_decide_eq_true hk)
  rw [exec_of_finite_samples (k := k) rfl h, hwave, segmentSamples_zeroWave]
  · rfl
  · intro n _
    rw [hwave]
    exact isFinite_mul_of_withinOne withinOne_zero h.args.amp

end Sys2Proof.Machine

/-! The bus: one step for a write and one for a read, and what each offset of the map makes of them (20_memory.md R60 to R66,
43_control.md R175, 70_reset_and_hazards.md R235 to R237). -/

namespace Sys2Proof.Machine

open Sys2Proof

/-! ### Mapped offsets (20_memory.md R64) -/

/-- The offset names the target `t`, and lies within the 32-bit offsets. -/
structure NamesTarget (p : Config.Params) (off : Nat) (t : Target) : Prop where
  lt : off < 2 ^ 32
  aligned : off % 4 = 0
  decode : decodeOffset p.maxSamples off = some t

theorem NamesTarget.decodeAccess_eq {p : Config.Params} {off : Nat} {t : Target} (h : NamesTarget p off t) :
    decodeAccess p .bits32 (p.base + off) = .ok t := decodeAccess_base_add h.lt h.aligned h.decode

theorem namesTarget_reg (p : Config.Params) {off : Nat} {r : Reg} (h : regAt off = some r) : NamesTarget p off (.reg r) := by
  have hsome : (regAt off).isSome = true := by rw [h, Option.isSome_some]
  obtain ⟨haligned, hle⟩ := (regAt_isSome off).1 hsome
  exact ⟨by omega, haligned, decodeOffset_reg h⟩

theorem namesTarget_window {p : Config.Params} (hp : p.Legal) {k : Nat} (h : k < windowWords p.maxSamples) :
    NamesTarget p (0x1000 + 4 * k) (.window k) := ⟨window_offset_lt hp h, by omega, decodeOffset_window h⟩

/-- The mapped offsets from 0x1000 on are those of the window's words. -/
theorem exists_window_of_mappedOffset {n off : Nat} (h : MappedOffset n off) (hge : 0x1000 ≤ off) :
    ∃ k < windowWords n, off = 0x1000 + 4 * k := by
  obtain ⟨haligned, hreg | ⟨-, hlt⟩⟩ := h
  · omega
  · exact ⟨(off - 0x1000) / 4, by rw [windowWords]; omega, by omega⟩

/-- Every mapped offset names a target. -/
theorem exists_namesTarget_of_mappedOffset {p : Config.Params} (hp : p.Legal) {off : Nat}
    (h : MappedOffset p.maxSamples off) : ∃ t, NamesTarget p off t := by
  rcases Nat.lt_or_ge off 0x1000 with hlt | hge
  · obtain ⟨haligned, hreg | hwindow⟩ := h
    · obtain ⟨r, hr⟩ := Option.isSome_iff_exists.1 ((regAt_isSome off).2 ⟨haligned, hreg⟩)
      exact ⟨_, namesTarget_reg p hr⟩
    · omega
  · obtain ⟨k, hk, rfl⟩ := exists_window_of_mappedOffset h hge
    exact ⟨_, namesTarget_window hp hk⟩

/-- Only mapped offsets name a target. -/
theorem mappedOffset_of_decodeOffset {n off : Nat} {t : Target} (haligned : off % 4 = 0) (h : decodeOffset n off = some t) :
    MappedOffset n off := by
  by_contra hnot
  rw [MappedOffset, not_and] at hnot
  obtain ⟨hreg, hwindow⟩ := not_or.1 (hnot haligned)
  rw [decodeOffset_none (fun hr => hreg hr.2) hwindow] at h
  cases h

/-! ### Accesses that take no place -/

/-- An access that the decode answers by a bus error is logged and changes nothing (60_exceptions.md R214). -/
theorem step_of_decode_error {s : State} {width : Width} {addr : Nat} {v : Word}
    (herr : ∀ t, decodeAccess s.params width addr ≠ .ok t)
    (hn : s.nextTurn = .access (.read width addr) ∨ s.nextTurn = .access (.write width addr v)) :
    step s = .next { s.restOfSchedule with responses := .error .busError :: s.responses } := by
  have hdecode : decodeAccess s.restOfSchedule.params width addr = .error .busError :=
    (decodeAccess_cases s.params width addr).resolve_left fun ⟨t, ht⟩ => herr t ht
  rcases hn with hn | hn
  · rw [step_access hn, State.busAccess, hdecode]
    rfl
  · rw [step_access hn, State.busAccess, hdecode]
    rfl

/-- Settles O42: the decode answers a target for aligned 32-bit accesses to mapped offsets only. -/
theorem otherAccessesGetBusError : Obligations.OtherAccessesGetBusError := by
  intro s width off v _ hbad hn
  refine step_of_decode_error (fun t ht => ?_) hn
  obtain ⟨hwidth, -, -, haligned, hdecode⟩ := decodeAccess_ok.1 ht
  rw [Nat.add_sub_cancel_left] at haligned hdecode
  exact hbad.elim (fun h => h hwidth) fun h => h (mappedOffset_of_decodeOffset haligned hdecode)

/-- Settles O58: the decode answers a target for the 32-bit offsets above BASE only. -/
theorem addressesOutsideOffsetRangeGetBusError : Obligations.AddressesOutsideOffsetRangeGetBusError := by
  intro s width addr v hout hn
  refine step_of_decode_error (fun t ht => ?_) hn
  obtain ⟨-, hbase, hlt, -, -⟩ := decodeAccess_ok.1 ht
  omega

/-! ### Writes -/

/-- A write to a mapped offset has its target's effect and is answered. -/
theorem step_write {s : State} {off : Nat} {v : Word} {t : Target} (ht : NamesTarget s.params off t)
    (hn : s.nextTurn = .access (.write .bits32 (s.params.base + off) v)) :
    step s = .next ((s.restOfSchedule.writeTarget t v).respond .written) := by
  have hdecode : decodeAccess s.restOfSchedule.params .bits32 (s.params.base + off) = .ok t := ht.decodeAccess_eq
  rw [step_access hn, State.busAccess, hdecode]

theorem step_write_reg {s : State} {off : Nat} {v : Word} {r : Reg} (hr : regAt off = some r)
    (hn : s.nextTurn = .access (.write .bits32 (s.params.base + off) v)) :
    step s = .next ((s.restOfSchedule.writeReg r v).respond .written) := step_write (namesTarget_reg _ hr) hn

theorem busy_eq_true {s : State} (h : s.pending ≠ none) : s.busy = true := (busy_iff_pending_ne_none s).2 h

theorem busy_eq_false {s : State} (h : s.pending = none) : s.busy = false := by
  rw [State.busy, h, Option.isSome_none]

/-- Settles O35: a write to CMD issues its word, and `issue` has three outcomes. -/
theorem commandWriteIssues : Obligations.CommandWriteIssues := by
  intro s w hn
  have hstep := step_write_reg (off := 0) (r := .cmd) rfl hn
  rw [State.writeReg] at hstep
  have hbusy : s.restOfSchedule.busy = true ↔ s.pending ≠ none := busy_iff_pending_ne_none s
  rw [hstep]
  rcases issue_cases w s.restOfSchedule with ⟨hb, e⟩ | ⟨hb, herr, hw, e⟩ | ⟨hb, hok, e⟩
  · rw [e, if_pos (hbusy.1 hb)]
    rfl
  · have hidle : ¬ s.pending ≠ none := fun h => by cases hb.symm.trans (hbusy.2 h)
    rw [e, if_neg hidle, if_pos ⟨herr, hw⟩]
    rfl
  · have hidle : ¬ s.pending ≠ none := fun h => by cases hb.symm.trans (hbusy.2 h)
    have hfree : ¬ (s.err = true ∧ w ≠ 0x00000002) := fun ⟨herr, hw⟩ =>
      hok.elim (fun h => by cases h.symm.trans herr) hw
    rw [e, if_neg hidle, if_neg hfree]
    rfl

/-- The six argument words, with the half that each stores (10_state.md R39 to R41). -/
theorem exists_writeArg_of_mem {off : Nat} (h : off ∈ [0x008, 0x00C, 0x010, 0x014, 0x018, 0x01C]) (v : Word) :
    ∃ r store, regAt off = some r ∧ ∀ s : State, s.writeReg r v = s.writeArg store := by
  simp only [List.mem_cons, List.not_mem_nil, or_false] at h
  rcases h with rfl | rfl | rfl | rfl | rfl | rfl <;> exact ⟨_, _, rfl, fun _ => rfl⟩

/-- Settles O36: whichever half the word is, the write comes to the one rule for argument words. -/
theorem busyArgumentWriteIsDropped : Obligations.BusyArgumentWriteIsDropped := by
  intro s off v hoff hp hn
  obtain ⟨r, store, hr, hstore⟩ := exists_writeArg_of_mem hoff v
  have hbusy : s.restOfSchedule.busy = true := busy_eq_true (s := s) hp
  rw [step_write_reg hr hn, hstore, State.writeArg, if_pos hbusy]
  rfl

/-- While idle a write to an argument word is its store. -/
theorem step_write_arg_of_idle {s : State} {off : Nat} {v : Word} {r : Reg} {store : State → State}
    (hr : regAt off = some r) (hstore : ∀ s : State, s.writeReg r v = s.writeArg store) (hp : s.pending = none)
    (hn : s.nextTurn = .access (.write .bits32 (s.params.base + off) v)) :
    step s = .next ((store s.restOfSchedule).respond .written) := by
  have hbusy : ¬ s.restOfSchedule.busy = true := Bool.eq_false_iff.1 (busy_eq_false (s := s) hp)
  rw [step_write_reg hr hn, hstore, State.writeArg, if_neg hbusy]

/-- Settles O37: one half each. -/
theorem idleArgumentWriteStoresHalf : Obligations.IdleArgumentWriteStoresHalf := by
  intro s off v hp hn r
  have hstore {r : Reg} {store : State → State} (hr : regAt off = some r)
      (hwrite : ∀ s : State, s.writeReg r v = s.writeArg store) := step_write_arg_of_idle hr hwrite hp hn
  refine ⟨?freqLo, ?freqHi, ?ampLo, ?ampHi, ?durLo, ?durHi⟩ <;> rintro rfl
  case freqLo => exact ⟨_, hstore (r := .freqLo) rfl fun _ => rfl, rfl, rfl⟩
  case freqHi => exact ⟨_, hstore (r := .freqHi) rfl fun _ => rfl, rfl, rfl⟩
  case ampLo => exact ⟨_, hstore (r := .ampLo) rfl fun _ => rfl, rfl, rfl⟩
  case ampHi => exact ⟨_, hstore (r := .ampHi) rfl fun _ => rfl, rfl, rfl⟩
  case durLo => exact ⟨_, hstore (r := .durLo) rfl fun _ => rfl, rfl, rfl⟩
  case durHi => exact ⟨_, hstore (r := .durHi) rfl fun _ => rfl, rfl, rfl⟩

/-- Settles O38: SIG_IDX has no condition on BUSY. -/
theorem sigIdxIsAlwaysWritable : Obligations.SigIdxIsAlwaysWritable :=
  fun _ _ hn => step_write_reg (r := .sigIdx) rfl hn

/-- The read-only registers ignore writes (20_memory.md R65). -/
theorem exists_ignored_write_of_mem {off : Nat}
    (h : off ∈ [0x004, 0x020, 0x024, 0x028, 0x02C, 0x034, 0x038, 0x03C]) :
    ∃ r, regAt off = some r ∧ ∀ (v : Word) (s : State), s.writeReg r v = s := by
  simp only [List.mem_cons, List.not_mem_nil, or_false] at h
  rcases h with rfl | rfl | rfl | rfl | rfl | rfl | rfl | rfl <;> exact ⟨_, rfl, fun _ _ => rfl⟩

/-- Settles O39: neither a read-only register nor the window has a store. -/
theorem readOnlyWritesAreIgnored : Obligations.ReadOnlyWritesAreIgnored := by
  rintro s off v hlegal (hoff | ⟨hge, hmapped⟩) hn
  · obtain ⟨r, hr, hignored⟩ := exists_ignored_write_of_mem hoff
    rw [step_write_reg hr hn, hignored]
    rfl
  · obtain ⟨k, hk, rfl⟩ := exists_window_of_mappedOffset hmapped hge
    exact step_write (namesTarget_window hlegal hk) hn

/-! ### Reads -/

/-- The state after a read that the bus answered by `v`. -/
def State.afterRead (v : Word) (s : State) : State := { s.restOfSchedule with responses := .data v :: s.responses }

theorem schedule_afterRead (v : Word) (s : State) : (s.afterRead v).schedule = s.schedule.tail := rfl

/-- No register and no word of the window shows the model's own schedule and responses. -/
theorem readTarget_of_own_fields (s : State) (turns : List Turn) (rs : List Response) (t : Target) :
    ({ s with schedule := turns, responses := rs } : State).readTarget t = s.readTarget t := by
  cases t with
  | window k => rfl
  | reg r => cases r <;> rfl

theorem readTarget_afterRead (v : Word) (s : State) (t : Target) : (s.afterRead v).readTarget t = s.readTarget t :=
  readTarget_of_own_fields s _ _ t

/-- A read of a mapped offset is that of its target. -/
theorem step_read {s : State} {off : Nat} {t : Target} (ht : NamesTarget s.params off t)
    (hn : s.nextTurn = .access (.read .bits32 (s.params.base + off))) :
    step s = .next (s.restOfSchedule.busRead t) := by
  have hdecode : decodeAccess s.restOfSchedule.params .bits32 (s.params.base + off) = .ok t := ht.decodeAccess_eq
  rw [step_access hn, State.busAccess, hdecode]

/-- While idle, and always of a register that is no result, a read is exact and changes nothing else (20_memory.md R65). -/
theorem step_read_exact {s : State} {off : Nat} {t : Target} (ht : NamesTarget s.params off t)
    (hexact : s.pending = none ∨ isResult t = false)
    (hn : s.nextTurn = .access (.read .bits32 (s.params.base + off))) :
    step s = .next (s.afterRead (s.readTarget t)) := by
  rw [step_read ht hn]
  rcases busRead_cases t s.restOfSchedule with ⟨hb, hr, -⟩ | ⟨-, e⟩
  · rcases hexact with hp | hr'
    · cases (busy_eq_false hp).symm.trans hb
    · cases hr.symm.trans hr'
  · have hread : s.restOfSchedule.readTarget t = s.readTarget t := readTarget_of_own_fields s _ _ t
    rw [e, hread]
    rfl

theorem step_read_reg_exact {s : State} {off : Nat} {r : Reg} {v : Word} (hr : regAt off = some r) (hv : s.readReg r = v)
    (hexact : s.pending = none ∨ isResult (.reg r) = false)
    (hn : s.nextTurn = .access (.read .bits32 (s.params.base + off))) : step s = .next (s.afterRead v) :=
  hv ▸ step_read_exact (namesTarget_reg _ hr) hexact hn

/-- While BUSY a result read returns the next free draw (70_reset_and_hazards.md R236). -/
theorem step_read_of_busy {s : State} {off : Nat} {t : Target} (ht : NamesTarget s.params off t) (hp : s.pending ≠ none)
    (hr : isResult t = true) (hn : s.nextTurn = .access (.read .bits32 (s.params.base + off))) :
    step s = .next { s.restOfSchedule with
      responses := .data (Config.busyRead s.draws) :: s.responses, draws := s.draws + 1 } := by
  rw [step_read ht hn]
  rcases busRead_cases t s.restOfSchedule with ⟨-, -, e⟩ | ⟨hb | hr', -⟩
  · rw [e]
    rfl
  · cases (busy_eq_true hp).symm.trans hb
  · cases hr.symm.trans hr'

theorem nextTurn_of_cons {s : State} {t : Turn} {rest : List Turn} (h : s.schedule = t :: rest) : s.nextTurn = t := by
  rw [State.nextTurn, h, List.headD_cons]

/-- Settles O40: the first of the two reads changes nothing that the second one shows. -/
theorem idleReadsRepeat : Obligations.IdleReadsRepeat := by
  intro s off rest hlegal hmapped hp hschedule
  obtain ⟨t, ht⟩ := exists_namesTarget_of_mappedOffset hlegal hmapped
  have hfirst := step_read_exact ht (.inl hp) (nextTurn_of_cons hschedule)
  have hschedule' := schedule_afterRead (s.readTarget t) s
  rw [hschedule, List.tail_cons] at hschedule'
  have hsecond := step_read_exact (s := s.afterRead (s.readTarget t)) ht (.inl hp) (nextTurn_of_cons hschedule')
  rw [readTarget_afterRead] at hsecond
  have hrest : rest = s.schedule.tail.tail := by rw [hschedule, List.tail_cons, List.tail_cons]
  refine ⟨s.readTarget t, (run_succ hfirst 1).trans ((run_succ hsecond 0).trans ?_)⟩
  rw [run_zero, hrest]
  rfl

/-- The result registers (70_reset_and_hazards.md R236). -/
theorem exists_result_of_mem {off : Nat} (h : off ∈ [0x020, 0x024, 0x028, 0x02C, 0x034, 0x038]) :
    ∃ r, regAt off = some r ∧ isResult (.reg r) = true := by
  simp only [List.mem_cons, List.not_mem_nil, or_false] at h
  rcases h with rfl | rfl | rfl | rfl | rfl | rfl <;> exact ⟨_, rfl, rfl⟩

/-- The registers that are no result, with what they hold (10_state.md R39 to R41, R45, R47; 20_memory.md R65). -/
theorem exists_exact_of_mem {s : State} {off : Nat} {v : Word}
    (h : (off, v) ∈ [(0x000, 0), (0x004, s.status), (0x008, s.freqLo), (0x00C, s.freqHi), (0x010, s.ampLo), (0x014, s.ampHi),
      (0x018, s.durLo), (0x01C, s.durHi), (0x030, s.sigIdx), (0x03C, BitVec.ofNat 32 s.params.maxSamples)]) :
    ∃ r, regAt off = some r ∧ s.readReg r = v ∧ isResult (.reg r) = false := by
  simp only [List.mem_cons, List.not_mem_nil, or_false, Prod.mk.injEq] at h
  rcases h with ⟨rfl, rfl⟩ | ⟨rfl, rfl⟩ | ⟨rfl, rfl⟩ | ⟨rfl, rfl⟩ | ⟨rfl, rfl⟩ | ⟨rfl, rfl⟩ | ⟨rfl, rfl⟩ | ⟨rfl, rfl⟩ |
    ⟨rfl, rfl⟩ | ⟨rfl, rfl⟩ <;> exact ⟨_, rfl, rfl, rfl⟩

/-- Settles O41: the offset alone says whether a read is one of a result. -/
theorem busyReadsAreFreeOrExact : Obligations.BusyReadsAreFreeOrExact := by
  intro s off hlegal hn
  constructor
  · rintro hp (hoff | ⟨hge, hmapped⟩)
    · obtain ⟨r, hr, hresult⟩ := exists_result_of_mem hoff
      exact step_read_of_busy (namesTarget_reg _ hr) hp hresult hn
    · obtain ⟨k, hk, rfl⟩ := exists_window_of_mappedOffset hmapped hge
      exact step_read_of_busy (namesTarget_window hlegal hk) hp rfl hn
  · intro v hv
    obtain ⟨r, hr, hread, hexact⟩ := exists_exact_of_mem hv
    exact step_read_reg_exact hr hread (.inr hexact) hn

/-- The result registers with plain values, and CAPACITY (10_state.md R42 to R44, R47). -/
theorem exists_readReg_of_mem {s : State} {off : Nat} {v : Word}
    (h : (off, v) ∈ [(0x020, BitVec.ofNat 32 s.mem.sig.length), (0x024, BitVec.ofNat 32 s.mem.pcm.length),
      (0x028, s.peak.extractLsb' 0 32), (0x02C, s.peak.extractLsb' 32 32), (0x03C, BitVec.ofNat 32 s.params.maxSamples)]) :
    ∃ r, regAt off = some r ∧ s.readReg r = v := by
  simp only [List.mem_cons, List.not_mem_nil, or_false, Prod.mk.injEq] at h
  rcases h with ⟨rfl, rfl⟩ | ⟨rfl, rfl⟩ | ⟨rfl, rfl⟩ | ⟨rfl, rfl⟩ | ⟨rfl, rfl⟩ <;> exact ⟨_, rfl, rfl⟩

/-- Settles O47: an idle read of each register. -/
theorem resultRegistersReadExactlyWhenIdle : Obligations.ResultRegistersReadExactlyWhenIdle := by
  intro s off v hp hv hn
  obtain ⟨r, hr, hread⟩ := exists_readReg_of_mem hv
  exact step_read_reg_exact hr hread (.inl hp) hn

/-! ### The signal cell and the PCM window (10_state.md R46, 20_memory.md R62) -/

/-- A list read with a default: the element where there is one, the default elsewhere. -/
theorem getD_eq_of_cases {α : Type} {l : List α} {i : Nat} {d b : α} (hcell : ∀ h : i < l.length, b = l[i])
    (hbeyond : l.length ≤ i → b = d) : l.getD i d = b := by
  rcases Nat.lt_or_ge i l.length with h | h
  · rw [List.getD_eq_getElem _ _ h, hcell h]
  · rw [List.getD_eq_default _ _ h, hbeyond h]

/-- Settles O44: the two registers are the halves of the selected cell. -/
theorem sigDataReadsSelectedCell : Obligations.SigDataReadsSelectedCell := by
  intro s b hp hcell hbeyond
  have hdata : s.sigData = b := getD_eq_of_cases hcell hbeyond
  subst hdata
  exact ⟨step_read_reg_exact (r := .sigDataLo) rfl rfl (.inl hp), step_read_reg_exact (r := .sigDataHi) rfl rfl (.inl hp)⟩

/-- Settles O45: a word of the window is an idle read of two samples. -/
theorem pcmWindowHoldsSamplePairs : Obligations.PcmWindowHoldsSamplePairs := by
  intro s k lo hi hlegal hp hk hlo hloBeyond hhi hhiBeyond hn
  have hlo : s.pcmAt (2 * k) = lo := getD_eq_of_cases hlo hloBeyond
  have hhi : s.pcmAt (2 * k + 1) = hi := getD_eq_of_cases hhi hhiBeyond
  subst hlo hhi
  rw [Nat.add_assoc] at hn
  exact step_read_exact (namesTarget_window hlegal hk) (.inl hp) hn

/-! ### Bytes (20_memory.md R61, R62) -/

/-- A byte of a mapped word: its place in the word is its place behind the word's offset. -/
theorem byteAt_add {s : State} {off j : Nat} {t : Target} (haligned : off % 4 = 0) (hj : j < 4)
    (ht : decodeOffset s.params.maxSamples off = some t) :
    s.byteAt (off + j) = some ((s.readTarget t).extractLsb' (8 * j) 8) := by
  have hmod : (off + j) % 4 = j := by omega
  rw [State.byteAt, hmod, Nat.add_sub_cancel, ht, Option.map_some]

theorem byteAt_reg {s : State} {off j : Nat} {r : Reg} (hj : j < 4) (hr : regAt off = some r) :
    s.byteAt (off + j) = some ((s.readReg r).extractLsb' (8 * j) 8) :=
  byteAt_add (namesTarget_reg s.params hr).aligned hj (decodeOffset_reg hr)

/-- Byte `j` of a window word belongs to its low sample for `j < 2` and to its high sample else. -/
theorem byteAt_window {s : State} {k j : Nat} (hk : k < windowWords s.params.maxSamples) (hj : j < 4) :
    s.byteAt (0x1000 + 4 * k + j) = some ((s.pcmAt (2 * k + 1) ++ s.pcmAt (2 * k)).extractLsb' (8 * j) 8) :=
  byteAt_add (by omega) hj (decodeOffset_window hk)

/-- The low sample of a window word is its low half. -/
theorem extractLsb'_low (hi lo : Sample) {j : Nat} (hj : j < 2) :
    (hi ++ lo).extractLsb' (8 * j) 8 = lo.extractLsb' (8 * j) 8 := by
  interval_cases j <;> exact BitVec.extractLsb'_append_eq_of_add_le (by decide)

/-- The high sample of a window word is its high half. -/
theorem extractLsb'_high (hi lo : Sample) (j : Nat) :
    (hi ++ lo).extractLsb' (8 * (2 + j)) 8 = hi.extractLsb' (8 * j) 8 := by
  have hstart : 8 * (2 + j) - 16 = 8 * j := by omega
  rw [BitVec.extractLsb'_append_eq_of_le (by omega), hstart]

theorem byteAt_sample {s : State} {i j : Nat} (hi : i < s.params.maxSamples) (hj : j < 2) :
    s.byteAt (0x1000 + 2 * i + j) = some ((s.pcmAt i).extractLsb' (8 * j) 8) := by
  have hk : i / 2 < windowWords s.params.maxSamples := by
    rw [windowWords]
    omega
  rcases Nat.mod_two_eq_zero_or_one i with heven | hodd
  · have hoff : 0x1000 + 2 * i + j = 0x1000 + 4 * (i / 2) + j := by omega
    have hindex : 2 * (i / 2) = i := by omega
    rw [hoff, byteAt_window hk (by omega), extractLsb'_low _ _ hj, hindex]
  · have hoff : 0x1000 + 2 * i + j = 0x1000 + 4 * (i / 2) + (2 + j) := by omega
    have hindex : 2 * (i / 2) + 1 = i := by omega
    rw [hoff, byteAt_window hk (by omega), extractLsb'_high, hindex]

/-- Settles O46: a byte is read from the register's word, or from the half of the window's word that holds the sample. -/
theorem bytesAreLittleEndian : Obligations.BytesAreLittleEndian := by
  intro s j
  refine ⟨fun hj off r hr => byteAt_reg hj hr, fun hj i hlen hi => ?_⟩
  have hsample : s.pcmAt i = s.mem.pcm[i] := List.getD_eq_getElem _ _ hlen
  rw [byteAt_sample hi hj, hsample]

end Sys2Proof.Machine
